-- ==== Sys2Proof/Word.lean ====
section
/-!
DEFINITION. The fixed-width values of the block (spec/30_encoding.md R90). Every value is unsigned (spec/00_scope.md R11).
-/

namespace Sys2Proof

/-- A command, event, response or register word (R112). -/
abbrev Word := BitVec 32

/-- One packed pulse slot (R100). -/
abbrev SlotWord := BitVec 32

/-- A pin identity, `PIN_W` = 8 bits, never interpreted (R22). -/
abbrev Pin := BitVec 8

/-- The 12-bit payload: value and telemetry flag (R92). -/
abbrev Payload := BitVec 12

/-- A 16-bit frame: payload and checksum (R91). -/
abbrev Frame := BitVec 16

/-- A decoded 12-bit telemetry value (R110, R111). -/
abbrev TlmValue := BitVec 12

/-- A speed class: bits 1:0 the speed, bit 2 the direction (R96). -/
abbrev SpeedClass := BitVec 3

end Sys2Proof
end

