-- ==== Sys2Proof/Config.lean ====
section
/-!
DEFINITION. What an implementation fixes (spec/00_scope.md R9): the sizes, the parameters a model takes as arguments, and the
values the spec leaves open, as constants with no body. Every operation that needs a parameter takes a `Params`; the machine
runs with `Config.params`, the spec's test vectors with `Params.reference`.
-/

namespace Sys2Proof

/-- The largest `N_CH` the encodings admit: index 0xF is the NONE and EMPTY mark (R40, D5). State holds this many entries of every
table; those at `N_CH` and above are unused. -/
abbrev maxCh : Nat := 15

/-- `SLOTS`: slots of a pulse train (R98). -/
abbrev nSlots : Nat := 16

/-- `CAP_MAX`: the most pairs a capture holds (R104). -/
abbrev capMax : Nat := 21

/-- A channel index (R40); the channel exists when it is below `N_CH`. -/
abbrev Chan := Fin maxCh

/-- A motor-instance index (R20); the slot exists when it is below `N_MOT`. -/
abbrev MotIdx := Fin maxCh

/-- The timing constants of one speed class (R130, R131): ticks per bit, ticks of the leading half of a 0 bit and of a 1 bit,
and the reply's bit period in nanoseconds. -/
structure Timing where
  tpb   : Nat
  t0h   : Nat
  t1h   : Nat
  bitNs : Nat
  deriving DecidableEq, Repr, Inhabited

/-- What a timing tuple must satisfy (R132, R102). -/
abbrev Timing.Admissible (t : Timing) : Prop :=
  0 < t.t0h ∧ t.t0h < t.tpb ∧ 0 < t.t1h ∧ t.t1h < t.tpb ∧ t.tpb ≤ 32767 ∧ 0 < t.bitNs ∧ t.t0h ≠ t.t1h

/-- An admissible tuple: `t` itself where `t` is admissible. With an unknown `t` the result is an unknown admissible tuple and
any admissible tuple is possible: R132 takes admissibility as a precondition on the parameter. -/
def Timing.constrain (t : Timing) : Timing :=
  if t.Admissible then t else { tpb := 3, t0h := 1, t1h := 2, bitNs := 1 }

/-- `SendWhileTx`: the treatment of SEND while a transmission is in flight (R213). -/
inductive SendPolicy where
  | drop
  | refuse
  deriving DecidableEq, Repr, Inhabited

/-- The parameters a model takes as arguments (R9). -/
structure Params where
  /-- `N_CH`, the channel pool's capacity (D5). -/
  nCh : Nat
  /-- `Timing(cls)`, R130. -/
  timing : SpeedClass → Timing
  /-- `TICK_NS` = `tickNum / tickDen` nanoseconds, a positive rational (D1). -/
  tickNum : Nat
  tickDen : Nat
  /-- `DEFAULT_CLASS`, R97. -/
  defaultClass : SpeedClass
  /-- `GAP_NS`, R135. -/
  gapNs : Nat
  /-- `REPLY_NS`, R135. -/
  replyNs : Nat
  /-- `SendWhileTx`, R213. -/
  sendWhileTx : SendPolicy
  /-- `AllocPolicy` (R192): the `j`-th choice of bind number `n` is `allocChoice n j`, an index into the channels still free,
  taken modulo their number. -/
  allocChoice : Nat → Nat → Nat
  /-- `ServiceOrder` (R273): in handler run number `n`, the `j`-th bit serviced is the one at index `serviceChoice n j` of the
  bits still to service, taken modulo their number. -/
  serviceChoice : Nat → Nat → Nat

/-- `N_MOT`, the number of motor-instance slots: `N_CH` (R9, D5). -/
abbrev Params.nMot (p : Params) : Nat := p.nCh

/-- What the spec asks of the parameters: a pool of at most 15 channels (D5), admissible timing (R132) and a positive tick (D1). -/
structure Params.Admissible (p : Params) : Prop where
  pool : p.nCh ≤ maxCh
  timing : ∀ cls, (p.timing cls).Admissible
  tickNum : 0 < p.tickNum
  tickDen : 0 < p.tickDen

/-- REF80 (R134): the timing table used by the spec's test vectors and by nothing else. -/
def ref80 (cls : SpeedClass) : Timing :=
  if cls.extractLsb' 0 2 = 0#2 then { tpb := 533, t0h := 200, t1h := 400, bitNs := 5333 }
  else if cls.extractLsb' 0 2 = 1#2 then { tpb := 267, t0h := 100, t1h := 200, bitNs := 2667 }
  else if cls.extractLsb' 0 2 = 2#2 then { tpb := 133, t0h := 50, t1h := 100, bitNs := 1333 }
  else { tpb := 67, t0h := 25, t1h := 50, bitNs := 667 }

/-- The reference configuration of spec/95_test_vectors.md: eight channels, REF80 with its 12.5 ns tick, class 1 as the default, the lowest
free channels first (R192), transmit bits before receive bits, each ascending (R273). `GAP_NS` and `REPLY_NS` have no reference
value there and are 0 here. -/
def Params.reference : Params where
  nCh := 8
  timing := ref80
  tickNum := 25
  tickDen := 2
  defaultClass := 1#3
  gapNs := 0
  replyNs := 0
  sendWhileTx := .drop
  allocChoice := fun _ _ => 0
  serviceChoice := fun _ _ => 0

/-- The open timing table before `Timing.constrain` (D2). Free value, log 6. -/
opaque Config.rawTiming : SpeedClass → Timing

/-- One less than the numerator of the open tick length (D1). Free value, log 7. -/
opaque Config.tickNumPred : Nat

/-- One less than the denominator of the open tick length (D1). Free value, log 7. -/
opaque Config.tickDenPred : Nat

/-- The open default class (D4). Free value, log 8. -/
opaque Config.defaultClass : SpeedClass

/-- The open inter-frame gap (D31). Free value, log 7. -/
opaque Config.gapNs : Nat

/-- The open reply window (D31). Free value, log 7. -/
opaque Config.replyNs : Nat

/-- The open channel choice of a bind (D19). Free value, log 9. -/
opaque Config.allocChoice : Nat → Nat → Nat

/-- The open order of one handler run (D26). Free value, log 10. -/
opaque Config.serviceChoice : Nat → Nat → Nat

/-- The machine's parameters: the default pool of R9 (DESIGN CHOICE, log 5), `SendWhileTx` = drop (R213; DESIGN CHOICE, log 11) and
the open values. -/
def Config.params : Params where
  nCh := 8
  timing := fun cls => (Config.rawTiming cls).constrain
  tickNum := Config.tickNumPred + 1
  tickDen := Config.tickDenPred + 1
  defaultClass := Config.defaultClass
  gapNs := Config.gapNs
  replyNs := Config.replyNs
  sendWhileTx := .drop
  allocChoice := Config.allocChoice
  serviceChoice := Config.serviceChoice

end Sys2Proof
end

