-- ==== Sys2Proof/Syntax.lean ====
section
/-!
DEFINITION. The operations, events and handler runs of the block as syntax (spec/30_encoding.md R112 to R120,
spec/opcode_table.json), and the words they arrive in.
-/

namespace Sys2Proof

/-- A captured pair (R104): a duration in nanoseconds and a level, true for high. -/
structure CapPair where
  dur   : BitVec 32
  level : Bool
  deriving DecidableEq, Repr, Inhabited

/-- One constructor per row of spec/opcode_table.json. Reserved bits are ignored on input (R116) and not kept. -/
inductive Instr where
  /-- R250. -/
  | nop
  /-- R194: motor index, pin, class code. -/
  | bringup (m : BitVec 4) (pin : Pin) (code : BitVec 4)
  /-- R244: motor index, telemetry flag, throttle. -/
  | throttle (m : BitVec 4) (tlm : Bool) (t : BitVec 16)
  /-- R245: motor index, telemetry flag, command code. -/
  | command (m : BitVec 4) (tlm : Bool) (code : BitVec 16)
  /-- R212: motor index, telemetry flag, value before the clamp. -/
  | send (m : BitVec 4) (tlm : Bool) (value : BitVec 16)
  /-- R248: motor index, selector. -/
  | read (m : BitVec 4) (sel : BitVec 8)
  /-- R116. -/
  | reserved6
  /-- R116. -/
  | reserved7
  /-- R270: the peripheral's transmit-complete event on a channel. -/
  | evTx (c : BitVec 4)
  /-- R271: the peripheral's receive-complete event on a channel, with the capture that accompanies the word (R119, R120). -/
  | evRx (c : BitVec 4) (capture : List CapPair)
  /-- R272: one run of the handler. -/
  | isr
  /-- R116. -/
  | reservedB
  /-- R116. -/
  | reservedC
  /-- R116. -/
  | reservedD
  /-- R116. -/
  | reservedE
  /-- R116. -/
  | reservedF
  deriving DecidableEq, Repr

/-- What arrives at the block: a 32-bit command or event word (R112, R119) and the capture that accompanies an EV_RX word; the
list is empty beside every other word. -/
structure Input where
  word    : Word
  capture : List CapPair
  deriving DecidableEq, Repr, Inhabited

end Sys2Proof
end

