-- ==== Sys2Proof/WellFormed.lean ====
section
/-!
DEFINITION. Which instructions are well formed. The operand widths of R112 to R119 are in the types of the fields, so the one
check left is the length of a capture (spec/30_encoding.md R104, R119).
-/

namespace Sys2Proof

/-- A capture is a list of at most 21 pairs (R104, R119). -/
def captureFits (capture : List CapPair) : Bool :=
  decide (capture.length ≤ capMax)

/-- An instruction of the input alphabet (R119). -/
def Instr.wellFormed : Instr → Bool
  | .nop => true
  | .bringup _ _ _ => true
  | .throttle _ _ _ => true
  | .command _ _ _ => true
  | .send _ _ _ => true
  | .read _ _ => true
  | .reserved6 => true
  | .reserved7 => true
  | .evTx _ => true
  | .evRx _ capture => captureFits capture
  | .isr => true
  | .reservedB => true
  | .reservedC => true
  | .reservedD => true
  | .reservedE => true
  | .reservedF => true

end Sys2Proof
end

