-- ==== Sys2Proof/Decode.lean ====
section
/-!
DEFINITION. From input words to instructions and back (spec/30_encoding.md R112 to R119, spec/opcode_table.json).
-/

namespace Sys2Proof

/-- Why an input is no word of the alphabet. No 32-bit word alone is refused (R116); only its capture can be. -/
inductive DecodeError where
  /-- A capture of more than 21 pairs (R104, R119). -/
  | captureTooLong
  /-- A capture beside a word other than EV_RX (R119). -/
  | strayCapture
  deriving DecidableEq, Repr

/-- `op` = `W[31:28]` (R112). -/
def opField (w : Word) : BitVec 4 := w.extractLsb' 28 4

/-- `m` of a host operation or `c` of an event = `W[27:24]` (R112, R115). -/
def indexField (w : Word) : BitVec 4 := w.extractLsb' 24 4

/-- `tlm` = `W[16]` (R112, R114). -/
def tlmField (w : Word) : Bool := w.getLsbD 16

/-- `arg` = `W[15:0]` (R112). -/
def argField (w : Word) : BitVec 16 := w.extractLsb' 0 16

/-- `arg[15:8]`, the pin of BRINGUP (R113). -/
def pinField (w : Word) : Pin := w.extractLsb' 8 8

/-- `arg[3:0]`, the class code of BRINGUP (R113). -/
def codeField (w : Word) : BitVec 4 := w.extractLsb' 0 4

/-- `arg[7:0]`, the selector of READ (R113). -/
def selField (w : Word) : BitVec 8 := w.extractLsb' 0 8

/-- The opcode map (R113), bits not named there ignored (R114, R116). That an ISR word runs the handler whatever its `W[27:24]` is the
model's choice, log 21: R115 calls the field the channel of an event word, R113 gives ISR none, and R116 does not list it as
ignored. DESIGN CHOICE. The last arm is opcode 0xF, the one value left. -/
def decodeWord (w : Word) (capture : List CapPair) : Instr :=
  match (opField w).toNat with
  | 0 => .nop
  | 1 => .bringup (indexField w) (pinField w) (codeField w)
  | 2 => .throttle (indexField w) (tlmField w) (argField w)
  | 3 => .command (indexField w) (tlmField w) (argField w)
  | 4 => .send (indexField w) (tlmField w) (argField w)
  | 5 => .read (indexField w) (selField w)
  | 6 => .reserved6
  | 7 => .reserved7
  | 8 => .evTx (indexField w)
  | 9 => .evRx (indexField w) capture
  | 10 => .isr
  | 11 => .reservedB
  | 12 => .reservedC
  | 13 => .reservedD
  | 14 => .reservedE
  | _ => .reservedF

/-- The instruction an input stands for. A capture may stand beside EV_RX only and holds at most 21 pairs (R119). -/
def decode (inp : Input) : Except DecodeError Instr :=
  if opField inp.word = 9#4 then
    if captureFits inp.capture then .ok (decodeWord inp.word inp.capture) else .error .captureTooLong
  else
    if inp.capture.isEmpty then .ok (decodeWord inp.word []) else .error .strayCapture

/-- A word of the shape of R112, reserved bits 0. -/
def packWord (op index : BitVec 4) (tlm : Bool) (arg : BitVec 16) : Word :=
  op ++ index ++ 0#7 ++ BitVec.ofBool tlm ++ arg

/-- The input that stands for an instruction, reserved and ignored bits 0 (R113, R119). -/
def encode : Instr → Input
  | .nop => ⟨packWord 0x0#4 0#4 false 0#16, []⟩
  | .bringup m pin code => ⟨packWord 0x1#4 m false (pin ++ 0#4 ++ code), []⟩
  | .throttle m tlm t => ⟨packWord 0x2#4 m tlm t, []⟩
  | .command m tlm code => ⟨packWord 0x3#4 m tlm code, []⟩
  | .send m tlm value => ⟨packWord 0x4#4 m tlm value, []⟩
  | .read m sel => ⟨packWord 0x5#4 m false (0#8 ++ sel), []⟩
  | .reserved6 => ⟨packWord 0x6#4 0#4 false 0#16, []⟩
  | .reserved7 => ⟨packWord 0x7#4 0#4 false 0#16, []⟩
  | .evTx c => ⟨packWord 0x8#4 c false 0#16, []⟩
  | .evRx c capture => ⟨packWord 0x9#4 c false 0#16, capture⟩
  | .isr => ⟨packWord 0xA#4 0#4 false 0#16, []⟩
  | .reservedB => ⟨packWord 0xB#4 0#4 false 0#16, []⟩
  | .reservedC => ⟨packWord 0xC#4 0#4 false 0#16, []⟩
  | .reservedD => ⟨packWord 0xD#4 0#4 false 0#16, []⟩
  | .reservedE => ⟨packWord 0xE#4 0#4 false 0#16, []⟩
  | .reservedF => ⟨packWord 0xF#4 0#4 false 0#16, []⟩

/-- The input that carries an `nbits`-bit word `w` and no capture. -/
def inputOfBits (nbits w : Nat) : Input :=
  { word := BitVec.ofNat 32 (w % 2 ^ nbits), capture := [] }

/-- The instruction the decoder reads from an opcode-table word (no capture accompanies it). -/
def decodeTableWord (nbits w : Nat) : Option Instr :=
  match decode (inputOfBits nbits w) with
  | .ok i => some i
  | .error _ => none

end Sys2Proof
end

