-- ==== Sys2Proof/Machine/State.lean ====
section
/-!
DEFINITION. The state of the block as plain data (spec/10_state.md), the reasons a step can stop, and the state after reset
(spec/10_state.md R53, spec/70_reset_and_hazards.md R290).
-/

namespace Sys2Proof.Machine

/-- The half-duplex state of an instance (R28, R211). -/
inductive HdState where
  | idle
  | transmitting
  | awaitingReply
  deriving DecidableEq, Repr, Inhabited

/-- Which channel owns the physical line (R29). -/
inductive LineOwner where
  | tx
  | rx
  deriving DecidableEq, Repr, Inhabited

/-- The owner of a capture buffer (R46, R65). -/
inductive RxOwner where
  | periph
  | done
  | handler
  deriving DecidableEq, Repr, Inhabited

/-- The kind of a completion event or status bit (R44, R199). -/
inductive EvKind where
  | tx
  | rx
  deriving DecidableEq, Repr, Inhabited

/-- The actions the block emits towards the peripheral and the pins (R13). -/
inductive Action where
  | cfgTx (c : Chan) (pin : Pin)
  | cfgRx (c : Chan) (pin : Pin)
  | pinSet (pin : Pin) (level : Bool)
  | pullUp (pin : Pin)
  | txLoad (c : Chan) (train : List SlotWord)
  | txStart (c : Chan)
  | lineToRx (m : MotIdx)
  | lineToTx (m : MotIdx)
  | rxArm (c : Chan)
  | rxTake (c : Chan)
  | rxRelease (c : Chan)
  | stClear (kind : EvKind) (c : Chan)
  deriving DecidableEq, Repr

/-- A motor-instance record (R20 to R36). -/
structure Motor where
  /-- R21. -/
  bound : Bool
  /-- R22. -/
  pin : Pin
  /-- R23. -/
  cls : SpeedClass
  /-- R24. -/
  bidir : Bool
  /-- R25; `none` is NONE. -/
  txCh : Option Chan
  /-- R26; `none` is NONE. -/
  rxCh : Option Chan
  /-- R28. -/
  st : HdState
  /-- R29. -/
  line : LineOwner
  /-- R30. -/
  pullup : Bool
  /-- R31. -/
  tlmValue : TlmValue
  /-- R32. -/
  erpmUs : BitVec 16
  /-- R33. -/
  erpmStopped : Bool
  /-- R34. -/
  tlmSlot : Vector (BitVec 8) 8
  /-- R35. -/
  tlmCnt : BitVec 32
  /-- R36. -/
  tlmOkCnt : BitVec 32
  deriving DecidableEq, Repr

/-- A buffer space as (index, element) pairs, indices strictly rising (`Memory.wf`). An unlisted element has no value:
its contents are unspecified (R46, R53). Log 13. -/
abbrev Memory (α : Type) := List (Nat × α)

/-- The state of the block (R20), its interface state (R44, R46, R47, R48) and its ports (R112). Every table has room for the largest
pool; the entries at `N_CH` and above are no part of the block and keep their reset values (`AbsentUnused`). Log 5. -/
structure State where
  /-- The motor-instance records, R20. -/
  mot : Vector Motor maxCh
  /-- R40; `none` is EMPTY. -/
  pool : Vector (Option MotIdx) maxCh
  /-- R41; `none` is NONE. -/
  txMap : Vector (Option MotIdx) maxCh
  /-- R42; `none` is NONE. -/
  rxMap : Vector (Option MotIdx) maxCh
  /-- R44. -/
  txSt : Vector Bool maxCh
  /-- R44. -/
  rxSt : Vector Bool maxCh
  /-- `TXBUF`, R46, R61. -/
  txBuf : Memory SlotWord
  /-- `RXBUF`, R46, R63. -/
  rxBuf : Memory CapPair
  /-- `rx_len[c]`, 0..21, R46. -/
  rxLen : Vector (Fin (capMax + 1)) maxCh
  /-- `rx_own[c]`, R46. -/
  rxOwn : Vector RxOwner maxCh
  /-- A transmission is in flight on the channel: hidden state, R47 (i). Log 16. -/
  txFlight : Vector Bool maxCh
  /-- How many captures are armed on the channel and not completed: hidden state, R47 (ii), U3. Log 16. -/
  rxArmed : Vector Nat maxCh
  /-- The output trace, oldest first, R48. -/
  trace : List Action
  /-- The words at the command port not yet taken, next first, R112, R119. Log 1. -/
  inputs : List Input
  /-- The response words given so far, oldest first, R112, R118. Log 3. -/
  responses : List Word
  /-- The MODEL's own field: how many free choices were made, the argument of the next one (R192, R273). Log 10. -/
  choices : Nat
  deriving DecidableEq, Repr

/-- Why a step stops. The spec has no fault (R260): each of these is raised only in a state that breaks an invariant the spec
states, and is safe. -/
inductive Fault where
  /-- Raised by SEND, THROTTLE and COMMAND on a bound instance whose `tx_ch` is NONE, against R25. Safe. -/
  | noTxChannel (m : MotIdx)
  /-- Raised by the TX_DONE service of a bidirectional instance whose `rx_ch` is NONE, against R26. Safe. -/
  | noRxChannel (m : MotIdx)
  /-- Raised by the RX_DONE service when an element below `rx_len[c]` has no value (R46, U1, U7). Safe. -/
  | captureUnreadable (c : Chan)
  deriving DecidableEq, Repr

/-- Why the model gives a step no meaning. -/
inductive Refusal where
  /-- Raised by `exec` for an instruction with no meaning yet; no arm does. Safe. -/
  | notModelled (mnemonic : String)
  /-- Raised by `step` for an input that is no word of the alphabet (R119). Safe. -/
  | badInput (why : DecodeError)
  /-- Raised by EV_RX for a capture of more than 21 pairs (R104), which no decoded word carries. Safe. -/
  | captureTooLong
  /-- Raised by SEND, THROTTLE and COMMAND during a transmission when `SendWhileTx` = refuse (R213); `Config.params` has drop,
  so no step of the machine raises it. Safe. -/
  | sendWhileTransmitting
  deriving DecidableEq, Repr

/-- A motor-instance record after reset (R53). -/
def Motor.reset : Motor where
  bound := false
  pin := 0#8
  cls := 0#3
  bidir := false
  txCh := none
  rxCh := none
  st := .idle
  line := .tx
  pullup := false
  tlmValue := 0#12
  erpmUs := 0#16
  erpmStopped := false
  tlmSlot := Vector.replicate 8 0#8
  tlmCnt := 0#32
  tlmOkCnt := 0#32

/-- The state after reset (R53, R290). The ports are empty: the block waits for a host operation. -/
def State.reset : State where
  mot := Vector.replicate maxCh Motor.reset
  pool := Vector.replicate maxCh none
  txMap := Vector.replicate maxCh none
  rxMap := Vector.replicate maxCh none
  txSt := Vector.replicate maxCh false
  rxSt := Vector.replicate maxCh false
  txBuf := []
  rxBuf := []
  rxLen := Vector.replicate maxCh 0
  rxOwn := Vector.replicate maxCh .periph
  txFlight := Vector.replicate maxCh false
  rxArmed := Vector.replicate maxCh 0
  trace := []
  inputs := []
  responses := []
  choices := 0

end Sys2Proof.Machine
end

