-- ==== Sys2Proof/Machine/Ops.lean ====
section
/-!
DEFINITION. The named operations over the state: the one place that reads and writes each register, table, buffer and port, and
the actions of spec/00_scope.md R13 with the state each of them changes. The block takes no exception (spec/60_exceptions.md
R260, R276, R277): `raise` is all that an abnormal outcome does.
-/

namespace Sys2Proof.Machine

/-- What a meaning answers. -/
abbrev Result := Host.Outcome State Fault Refusal

/-- Go on from a result: stop at a fault or a refusal. -/
def Result.andThen (r : Result) (f : State → Result) : Result :=
  match r with
  | .next s => f s
  | .fault e => .fault e
  | .refused e => .refused e

/-! ### Buffers -/

/-- The element at an index, if it has a value. -/
def Memory.read {α : Type} : Memory α → Nat → Option α
  | [], _ => none
  | (k, v) :: rest, a => if k = a then some v else Memory.read rest a

/-- Store an element at an index, keeping the indices strictly rising. -/
def Memory.write {α : Type} : Memory α → Nat → α → Memory α
  | [], a, x => [(a, x)]
  | (k, v) :: rest, a, x =>
    if a < k then (a, x) :: (k, v) :: rest
    else if k = a then (a, x) :: rest
    else (k, v) :: Memory.write rest a x

/-- Store elements at consecutive indices, in ascending order. -/
def Memory.writeFrom {α : Type} (mem : Memory α) (a : Nat) : List α → Memory α
  | [] => mem
  | x :: xs => Memory.writeFrom (mem.write a x) (a + 1) xs

/-- The canonical form of a buffer space of `size` elements: indices strictly rising and in range (R71). -/
abbrev Memory.wf {α : Type} (size : Nat) (mem : Memory α) : Prop :=
  (mem.map Prod.fst).Pairwise (· < ·) ∧ ∀ cell ∈ mem, cell.1 < size

/-- The index of slot `i` of `TXBUF(c)` (R60, R61). -/
def txIndex (c : Chan) (i : Nat) : Nat := nSlots * c.val + i

/-- The index of pair `i` of `RXBUF(c)` (R60, R63). -/
def rxIndex (c : Chan) (i : Nat) : Nat := capMax * c.val + i

/-! ### Registers and tables -/

/-- The record `mot[m]`. -/
def State.motor (s : State) (m : MotIdx) : Motor := s.mot[m]

/-- Change the record `mot[m]`. -/
def State.modMotor (s : State) (m : MotIdx) (f : Motor → Motor) : State :=
  { s with mot := s.mot.set m (f (s.motor m)) }

/-- `pool[c]`. -/
def State.owner (s : State) (c : Chan) : Option MotIdx := s.pool[c]

/-- `pool[c] <- v`. -/
def State.setOwner (s : State) (c : Chan) (v : Option MotIdx) : State := { s with pool := s.pool.set c v }

/-- `tx_map[c]`. -/
def State.txOwner (s : State) (c : Chan) : Option MotIdx := s.txMap[c]

/-- `tx_map[c] <- v`. -/
def State.setTxOwner (s : State) (c : Chan) (v : Option MotIdx) : State := { s with txMap := s.txMap.set c v }

/-- `rx_map[c]`. -/
def State.rxOwner (s : State) (c : Chan) : Option MotIdx := s.rxMap[c]

/-- `rx_map[c] <- v`. -/
def State.setRxOwner (s : State) (c : Chan) (v : Option MotIdx) : State := { s with rxMap := s.rxMap.set c v }

/-- `tx_st[c]`. -/
def State.txDoneBit (s : State) (c : Chan) : Bool := s.txSt[c]

/-- `tx_st[c] <- v`. -/
def State.setTxDoneBit (s : State) (c : Chan) (v : Bool) : State := { s with txSt := s.txSt.set c v }

/-- `rx_st[c]`. -/
def State.rxDoneBit (s : State) (c : Chan) : Bool := s.rxSt[c]

/-- `rx_st[c] <- v`. -/
def State.setRxDoneBit (s : State) (c : Chan) (v : Bool) : State := { s with rxSt := s.rxSt.set c v }

/-- `rx_len[c]`. -/
def State.capLen (s : State) (c : Chan) : Nat := (s.rxLen[c]).val

/-- `rx_len[c] <- v`. -/
def State.setCapLen (s : State) (c : Chan) (v : Fin (capMax + 1)) : State := { s with rxLen := s.rxLen.set c v }

/-- `rx_own[c]`. -/
def State.capOwner (s : State) (c : Chan) : RxOwner := s.rxOwn[c]

/-- `rx_own[c] <- v`. -/
def State.setCapOwner (s : State) (c : Chan) (v : RxOwner) : State := { s with rxOwn := s.rxOwn.set c v }

/-- Is a transmission in flight on `c`? (R47 (i)) -/
def State.inFlight (s : State) (c : Chan) : Bool := s.txFlight[c]

/-- Record the start or the end of a transmission on `c`. -/
def State.setInFlight (s : State) (c : Chan) (v : Bool) : State := { s with txFlight := s.txFlight.set c v }

/-- How many captures are armed on `c` and not completed (R47 (ii), U3). -/
def State.armed (s : State) (c : Chan) : Nat := s.rxArmed[c]

/-- Record the arming or the end of a capture on `c`. -/
def State.setArmed (s : State) (c : Chan) (v : Nat) : State := { s with rxArmed := s.rxArmed.set c v }

/-- Slot `i` of `TXBUF(c)`, if it has a value. -/
def State.txSlot (s : State) (c : Chan) (i : Fin nSlots) : Option SlotWord := s.txBuf.read (txIndex c i)

/-- Pair `i` of `RXBUF(c)`, whoever owns the buffer, if it has a value. -/
def State.rxPair (s : State) (c : Chan) (i : Fin capMax) : Option CapPair := s.rxBuf.read (rxIndex c i)

/-- `MemRead(RXBUF(c), i)` (R63): it has a value only while the handler owns the buffer (R65, U1) and below `rx_len[c]`. -/
def State.memRead (s : State) (c : Chan) (i : Nat) : Option CapPair :=
  if s.capOwner c = .handler ∧ i < s.capLen c then s.rxBuf.read (rxIndex c i) else none

/-- The pairs `i .. i + n - 1` of `RXBUF(c)` by `MemRead`, if each has a value. -/
def State.readPairs (s : State) (c : Chan) : Nat → Nat → Option (List CapPair)
  | _, 0 => some []
  | i, n + 1 =>
    match s.memRead c i, s.readPairs c (i + 1) n with
    | some q, some qs => some (q :: qs)
    | _, _ => none

/-- `[ MemRead(RXBUF(c), i) for i in 0 .. rx_len[c]-1 ]` (R220). -/
def State.readCapture (s : State) (c : Chan) : Option (List CapPair) :=
  s.readPairs c 0 (s.capLen c)

/-! ### Ports -/

/-- Append an action to the output trace (R13, R48). -/
def State.emit (s : State) (a : Action) : State := { s with trace := s.trace ++ [a] }

/-- Give the host a response word (R112, R118). -/
def State.respond (s : State) (w : Word) : State := { s with responses := s.responses ++ [w] }

/-- Put words at the command port in place of those there. -/
def State.setInputs (s : State) (l : List Input) : State := { s with inputs := l }

/-- Store elements at consecutive indices of `RXBUF`, in ascending order. -/
def State.storeRx (s : State) (a : Nat) (l : List CapPair) : State := { s with rxBuf := s.rxBuf.writeFrom a l }

/-- Store elements at consecutive indices of `TXBUF`, in ascending order (R61). -/
def State.storeTx (s : State) (a : Nat) (l : List SlotWord) : State := { s with txBuf := s.txBuf.writeFrom a l }

/-- Take the first word at the command port, if there is one. -/
def State.takeInput (s : State) : Option (Input × State) :=
  match s.inputs with
  | [] => none
  | inp :: rest => some (inp, s.setInputs rest)

/-- A step with no word at the port: the block waits (R290). Log 1. -/
def waitForHost (s : State) : Result := .next s

/-- Pass to the next free choice. -/
def State.nextChoice (s : State) : State := { s with choices := s.choices + 1 }

/-- The abnormal outcomes of host operations (R261). They are labels and are stored nowhere. -/
inductive Abnormal where
  /-- E1. -/
  | capacityExceeded
  /-- E2. -/
  | alreadyBound
  /-- E3. -/
  | badIndex
  /-- E4. -/
  | notBound
  /-- E5. -/
  | cmdOutOfRange
  /-- E6. -/
  | busyDropped
  deriving DecidableEq, Repr

/-- `raise X`: end the operation with outcome X. Nothing is saved or vectored; the caller sees the response 0 (R260, R261). -/
def raise (_x : Abnormal) (s : State) : Result := .next (s.respond 0#32)

/-! ### Actions of R13 with the state they change -/

/-- `emit TxLoad(c, train)`: the train's slots are stored at indices 0, 1, … of `TXBUF(c)`, in ascending order (R61). -/
def State.txLoad (s : State) (c : Chan) (train : List SlotWord) : State :=
  (s.emit (.txLoad c train)).storeTx (txIndex c 0) train

/-- `emit TxStart(c)`: from now on the peripheral is reading `TXBUF(c)` (R47 (i), R62). -/
def State.txStart (s : State) (c : Chan) : State :=
  (s.emit (.txStart c)).setInFlight c true

/-- `emit LineToTx(m); mot[m].line <- TX` (R29, R67). -/
def State.lineToTx (s : State) (m : MotIdx) : State :=
  (s.emit (.lineToTx m)).modMotor m fun r => { r with line := .tx }

/-- `emit LineToRx(m); mot[m].line <- RX` (R29, R67). -/
def State.lineToRx (s : State) (m : MotIdx) : State :=
  (s.emit (.lineToRx m)).modMotor m fun r => { r with line := .rx }

/-- `emit PullUp(mot[m].pin); mot[m].pullup <- 1` (R30, R67). -/
def State.enablePullUp (s : State) (m : MotIdx) : State :=
  (s.emit (.pullUp (s.motor m).pin)).modMotor m fun r => { r with pullup := true }

/-- `mot[m].st <- v` (R28). -/
def State.setSt (s : State) (m : MotIdx) (v : HdState) : State :=
  s.modMotor m fun r => { r with st := v }

/-- `emit RxArm(c); rx_own[c] <- PERIPH`, one more capture is armed (R47 (ii), R65). -/
def State.rxArm (s : State) (c : Chan) : State :=
  ((s.emit (.rxArm c)).setCapOwner c .periph).setArmed c (s.armed c + 1)

/-- `emit RxTake(c); rx_own[c] <- HANDLER` (R65). -/
def State.rxTake (s : State) (c : Chan) : State :=
  (s.emit (.rxTake c)).setCapOwner c .handler

/-- `emit RxRelease(c); rx_own[c] <- PERIPH` (R65). -/
def State.rxRelease (s : State) (c : Chan) : State :=
  (s.emit (.rxRelease c)).setCapOwner c .periph

end Sys2Proof.Machine
end

