-- ==== Sys2Proof/Machine/Flags.lean ====
section
/-!
DEFINITION. The block's flags. There are no condition codes and no arithmetic flags (spec/10_state.md R52); the flags are the
completion status bits, set by the peripheral and cleared by the handler (R44), and the interrupt request, their OR (R45).
-/

namespace Sys2Proof.Machine

/-- The channels of the pool, `0` to `N_CH - 1`, ascending (R40). -/
def allChannels (p : Params) : List Chan :=
  [0, 1, 2, 3, 4, 5, 6, 7, 8, 9, 10, 11, 12, 13, 14].filter fun c => decide (c.val < p.nCh)

/-- `emit StClear(TX, c); tx_st[c] <- 0` (R68). -/
def State.clearTxDone (s : State) (c : Chan) : State :=
  (s.emit (.stClear .tx c)).setTxDoneBit c false

/-- `emit StClear(RX, c); rx_st[c] <- 0` (R68). -/
def State.clearRxDone (s : State) (c : Chan) : State :=
  (s.emit (.stClear .rx c)).setRxDoneBit c false

/-- The set status bits: `T` ascending, then `R` ascending (R272, R273). -/
def State.pending (p : Params) (s : State) : List (EvKind × Chan) :=
  (((allChannels p).filter fun c => s.txDoneBit c).map fun c => (.tx, c)) ++
  (((allChannels p).filter fun c => s.rxDoneBit c).map fun c => (.rx, c))

/-- The interrupt request: the OR of all status bits (R45). -/
def State.irq (p : Params) (s : State) : Bool :=
  ((allChannels p).any fun c => s.txDoneBit c) || ((allChannels p).any fun c => s.rxDoneBit c)

end Sys2Proof.Machine
end

