-- ==== Sys2Proof/Machine/Operands.lean ====
section
/-!
DEFINITION. The operand forms of the command words: the indices, the class code, the clamped values (spec/30_encoding.md
R94 to R97, R115).
-/

namespace Sys2Proof.Machine

/-- The motor index an operand names, if it is below `N_MOT` (R115). -/
def motorOf (p : Params) (m : BitVec 4) : Option MotIdx :=
  if h : m.toNat < maxCh ∧ m.toNat < p.nMot then some ⟨m.toNat, h.1⟩ else none

/-- The channel an event names, if it is below `N_CH` (R115). -/
def channelOf (p : Params) (c : BitVec 4) : Option Chan :=
  if h : c.toNat < maxCh ∧ c.toNat < p.nCh then some ⟨c.toNat, h.1⟩ else none

/-- `NormClass(code)` (R97). -/
def normClass (p : Params) (code : BitVec 4) : SpeedClass :=
  if code.toNat ≤ 7 then code.setWidth 3 else p.defaultClass

/-- `cls[2]`: is the class bidirectional? (R96) -/
def classBidir (cls : SpeedClass) : Bool := cls.getLsbD 2

/-- The 11-bit value placed in a frame: the operand clamped to 2047 (R94). -/
def clampValue (a : Nat) : BitVec 11 := BitVec.ofNat 11 (min a 2047)

/-- The frame value of a throttle operand, the sum taken in unbounded naturals (R95). -/
def throttleValue (t : BitVec 16) : Nat := min (48 + t.toNat) 2047

end Sys2Proof.Machine
end

