-- ==== Sys2Proof/Machine/Channels.lean ====
section
/-!
DEFINITION. The Channel Manager: BIND, BRINGUP, ROUTE (spec/43_channel_manager.md R190 to R199).
-/

namespace Sys2Proof.Machine

/-- The free channels, ascending (R191). -/
def State.freeChannels (p : Params) (s : State) : List Chan :=
  (allChannels p).filter fun c => decide (s.owner c = none)

/-- How many channels a bind needs (R191). -/
def channelsNeeded (bidir : Bool) : Nat := if bidir then 2 else 1

/-- The element a free choice picks from a list that is not empty: index `n` modulo its length. -/
def pickChannel (n : Nat) (l : List Chan) : Chan := l.getD (n % l.length) 0

/-- `BIND(bidir)`: the transmit channel and, when bidirectional, the receive channel, or nothing when too few channels are free.
Which free channels are taken is the free choice of R192. It writes nothing (R191). Log 9. -/
def bindChannels (p : Params) (s : State) (bidir : Bool) : Option (Chan × Option Chan) :=
  if (s.freeChannels p).length < channelsNeeded bidir then none
  else
    let tx := pickChannel (p.allocChoice s.choices 0) (s.freeChannels p)
    if bidir then some (tx, some (pickChannel (p.allocChoice s.choices 1) ((s.freeChannels p).erase tx)))
    else some (tx, none)

/-- The record a successful bring-up writes (R54, R196). -/
def freshMotor (pin : Pin) (cls : SpeedClass) (tx : Chan) (rx : Option Chan) : Motor :=
  { Motor.reset with
    bound := true, pin := pin, cls := cls, bidir := classBidir cls, txCh := some tx, rxCh := rx }

/-- The receive half of a commit: the pool and map entries and `CfgRx` (R196). -/
def State.commitRx (s : State) (m : MotIdx) (pin : Pin) (rx : Option Chan) : State :=
  match rx with
  | none => s
  | some c => ((s.setOwner c (some m)).setRxOwner c (some m)).emit (.cfgRx c pin)

/-- `commit(m, pin, cls, tx, rx)` as one step (R196). -/
def State.commit (s : State) (m : MotIdx) (pin : Pin) (cls : SpeedClass) (tx : Chan) (rx : Option Chan) : State :=
  ((((s.modMotor m fun _ => freshMotor pin cls tx rx).setOwner tx (some m)).setTxOwner tx (some m)).emit
    (.cfgTx tx pin)).commitRx m pin rx

/-- BRINGUP with its tests in the order of R194: index, already bound, capacity (R264). -/
def bringupOp (p : Params) (m : BitVec 4) (pin : Pin) (code : BitVec 4) (s : State) : Result :=
  match motorOf p m with
  | none => raise .badIndex s
  | some k =>
    if (s.motor k).bound then raise .alreadyBound s
    else
      match bindChannels p s (classBidir (normClass p code)) with
      | none => raise .capacityExceeded s
      | some (tx, rx) => .next (((s.commit k pin (normClass p code) tx rx).nextChoice).respond 1#32)

/-- BRINGUP (R194). -/
def execBringup (m : BitVec 4) (pin : Pin) (code : BitVec 4) (s : State) : Result :=
  bringupOp Config.params m pin code s

/-- `ROUTE(kind, c)` (R199). -/
def State.route (s : State) (kind : EvKind) (c : Chan) : Option MotIdx :=
  match kind with
  | .tx => s.txOwner c
  | .rx => s.rxOwner c

end Sys2Proof.Machine
end

