-- ==== Sys2Proof/Machine/Timing.lean ====
section
/-!
DEFINITION. The Mode Timing Table: TIMING and MININTERVAL (spec/40_timing_table.md R130, R135).
-/

namespace Sys2Proof.Machine

/-- `TIMING(cls)` (R130). -/
def timingOf (p : Params) (cls : SpeedClass) : Timing := p.timing cls

/-- `ceil(16 * tpb * TICK_NS)`: the length of a frame in nanoseconds, rounded up (R135). -/
def frameNs (p : Params) (cls : SpeedClass) : Nat :=
  (16 * (timingOf p cls).tpb * p.tickNum + (p.tickDen - 1)) / p.tickDen

/-- `MININTERVAL(cls)` in nanoseconds (R135). -/
def minInterval (p : Params) (cls : SpeedClass) : Nat :=
  frameNs p cls + p.gapNs + (if classBidir cls then p.replyNs else 0)

/-- A natural number as a 32-bit word, saturated at `0xFFFFFFFF` (R117). -/
def saturate32 (n : Nat) : Word := BitVec.ofNat 32 (min n 0xFFFFFFFF)

end Sys2Proof.Machine
end

