-- ==== Sys2Proof/Machine/Codec.lean ====
section
/-!
DEFINITION. The Protocol Codec: CHECKSUM, FRAME, ENCODE (spec/41_encoder.md R141 to R143), the slot format (spec/30_encoding.md
R98 to R102), and what a train says on the line and how its frame is read back (R144, R145).
-/

namespace Sys2Proof.Machine

/-- `CHECKSUM(v12, bidir)`: the XOR of the three nibbles, inverted when bidirectional (R141). -/
def checksum (v12 : Payload) (bidir : Bool) : BitVec 4 :=
  let c := v12.extractLsb' 8 4 ^^^ v12.extractLsb' 4 4 ^^^ v12.extractLsb' 0 4
  if bidir then ~~~c else c

/-- The payload `{value, tlm}` of a clamped value (R92, R94). -/
def payload (a : Nat) (tlm : Bool) : Payload := clampValue a ++ BitVec.ofBool tlm

/-- `FRAME(a, tlm, bidir)` (R142). -/
def frame (a : Nat) (tlm bidir : Bool) : Frame :=
  payload a tlm ++ checksum (payload a tlm) bidir

/-- A slot: the leading and the trailing half, each a duration in ticks and a level (R100). -/
structure Slot where
  dur0 : BitVec 15
  lvl0 : Bool
  dur1 : BitVec 15
  lvl1 : Bool
  deriving DecidableEq, Repr

/-- The slot word of R100. -/
def packSlot (x : Slot) : SlotWord :=
  BitVec.ofBool x.lvl1 ++ x.dur1 ++ BitVec.ofBool x.lvl0 ++ x.dur0

/-- The slot a slot word stands for (R100). -/
def unpackSlot (w : SlotWord) : Slot where
  dur0 := w.extractLsb' 0 15
  lvl0 := w.getLsbD 15
  dur1 := w.extractLsb' 16 15
  lvl1 := w.getLsbD 31

/-- The active level of an instance: low when bidirectional, high when not (R101). -/
def activeLevel (bidir : Bool) : Bool := !bidir

/-- The leading duration of a bit (R102). -/
def leadTicks (t : Timing) (bit : Bool) : Nat := if bit then t.t1h else t.t0h

/-- Slot `i` of the train of frame `f`: it carries bit `15 - i`; the trailing duration of slot 15 is 0 (R98, R102, R143). -/
def trainSlot (t : Timing) (f : Frame) (bidir : Bool) (i : Nat) : Slot where
  dur0 := BitVec.ofNat 15 (leadTicks t (f.getLsbD (15 - i)))
  lvl0 := activeLevel bidir
  dur1 := if i = 15 then 0#15 else BitVec.ofNat 15 (t.tpb - leadTicks t (f.getLsbD (15 - i)))
  lvl1 := !activeLevel bidir

/-- The pulse train of a frame, slot 0 first (R98, R143). -/
def trainOf (t : Timing) (f : Frame) (bidir : Bool) : List SlotWord :=
  (List.range nSlots).map fun i => packSlot (trainSlot t f bidir i)

/-- `ENCODE(a, tlm, cls, bidir)` (R143). -/
def encodeTrain (p : Params) (a : Nat) (tlm : Bool) (cls : SpeedClass) (bidir : Bool) : List SlotWord :=
  trainOf (timingOf p cls) (frame a tlm bidir) bidir

/-- The halves of a train in the order they are played: level and duration in ticks (R62). -/
def halves (train : List SlotWord) : List (Bool × Nat) :=
  train.flatMap fun w =>
    [((unpackSlot w).lvl0, (unpackSlot w).dur0.toNat), ((unpackSlot w).lvl1, (unpackSlot w).dur1.toNat)]

/-- What the peripheral plays of a train: it stops at the first half whose duration is 0 (R62, R144). -/
def lineSignal (train : List SlotWord) : List (Bool × Nat) :=
  (halves train).takeWhile fun h => decide (h.2 ≠ 0)

/-- How many ticks the peripheral plays of a train (R144). -/
def playedTicks (train : List SlotWord) : Nat :=
  ((lineSignal train).map Prod.snd).sum

/-- The frame read back from a train: bit `15 - i` is 1 exactly when the leading duration of slot `i` is `t1h` (R145). -/
def recoverFrame (t : Timing) (train : List SlotWord) : Frame :=
  BitVec.ofNat 16 (train.foldl (fun acc w => 2 * acc + (decide ((unpackSlot w).dur0.toNat = t.t1h)).toNat) 0)

end Sys2Proof.Machine
end

