-- ==== Sys2Proof/Machine/Telemetry.lean ====
section
/-!
DEFINITION. The Bidirectional Telemetry Decoder: DECODE, CLASSIFY, TLM_UPDATE (spec/42_decoder.md), and the GCR table
(spec/30_encoding.md R108, R109). DECODE is `decodeCapture`, `decode` being the decoder of command words.
-/

namespace Sys2Proof.Machine

/-- `GcrRev` (R108): the nibble of a 5-bit code, `none` for the 16 invalid codes (R109). Log 12. -/
def gcrRev (code : BitVec 5) : Option (BitVec 4) :=
  match code.toNat with
  | 0x09 => some 0x9#4
  | 0x0A => some 0xA#4
  | 0x0B => some 0xB#4
  | 0x0D => some 0xD#4
  | 0x0E => some 0xE#4
  | 0x0F => some 0xF#4
  | 0x12 => some 0x2#4
  | 0x13 => some 0x3#4
  | 0x15 => some 0x5#4
  | 0x16 => some 0x6#4
  | 0x17 => some 0x7#4
  | 0x19 => some 0x0#4
  | 0x1A => some 0x8#4
  | 0x1B => some 0x1#4
  | 0x1D => some 0x4#4
  | 0x1E => some 0xC#4
  | _ => none

/-- The result of DECODE (R160). It is returned and stored nowhere (R49). -/
inductive DecodeResult where
  | ok (v : TlmValue)
  /-- T1, R162. -/
  | noEdge
  /-- T2, R171. -/
  | badGcr
  /-- T3, R172. -/
  | badCsum
  deriving DecidableEq, Repr

/-- The run length of a duration in bit times, to the nearest, a tie rounding up (R165). -/
def runLength (bitNs dur : Nat) : Nat := (2 * dur + bitNs) / (2 * bitNs)

/-- Append `r` copies of a level at the least significant end (R163). -/
def appendRun (acc : Nat) (level : Bool) : Nat → Nat
  | 0 => acc
  | r + 1 => appendRun (2 * acc + level.toNat) level r

/-- Step 2: the bits of the pairs in order, with their number, ending at 21 bits, at a pair of duration 0 or at the list's end
(R163 to R166). -/
def accumulate (bitNs : Nat) : List CapPair → Nat → Nat → Nat × Nat
  | [], acc, cnt => (acc, cnt)
  | q :: qs, acc, cnt =>
    if 21 ≤ cnt ∨ q.dur = 0#32 then (acc, cnt)
    else
      let r := min (runLength bitNs q.dur.toNat) (21 - cnt)
      accumulate bitNs qs (appendRun acc q.level r) (cnt + r)

/-- Step 3: the 21-bit raw reply, captured bits at the top and ones below (R105, R167). -/
def padRaw (acc cnt : Nat) : BitVec 21 :=
  BitVec.ofNat 21 ((acc <<< (21 - cnt)) ||| ((1 <<< (21 - cnt)) - 1))

/-- Step 4: the 20-bit GCR value (R106, R168). -/
def unshift (raw : BitVec 21) : BitVec 20 := (raw ^^^ (raw >>> 1)).extractLsb' 0 20

/-- The 5-bit window `k` of a GCR value, window 3 first on the line (R106, R170). -/
def gcrWindow (g : BitVec 20) (k : Nat) : BitVec 5 := g.extractLsb' (5 * k) 5

/-- Step 5: the reply word, or nothing when a window is invalid (R107, R170, R171). -/
def remap (g : BitVec 20) : Option (BitVec 16) :=
  match gcrRev (gcrWindow g 3), gcrRev (gcrWindow g 2), gcrRev (gcrWindow g 1), gcrRev (gcrWindow g 0) with
  | some n3, some n2, some n1, some n0 => some (n3 ++ n2 ++ n1 ++ n0)
  | _, _, _, _ => none

/-- Steps 3 to 7: from the accumulated bits to the result (R167 to R173). The reply's checksum is always the inverted one
(R172). -/
def decodeBits (acc cnt : Nat) : DecodeResult :=
  match remap (unshift (padRaw acc cnt)) with
  | none => .badGcr
  | some w16 =>
    if w16.extractLsb' 0 4 = checksum (w16.extractLsb' 4 12) true then .ok (w16.extractLsb' 4 12) else .badCsum

/-- `DECODE(cap, P)` (R174), total over every list of pairs (R161). -/
def decodeCapture (cap : List CapPair) (bitNs : Nat) : DecodeResult :=
  match cap with
  | [] => .noEdge
  | q :: _ =>
    if q.level = true ∨ q.dur = 0#32 then .noEdge
    else
      let bits := accumulate bitNs cap 0 0
      decodeBits bits.1 bits.2

/-- The kinds of a telemetry value (R175). -/
inductive Telemetry where
  | erpmStopped
  | erpm (period : BitVec 16)
  | slot (sel : Fin 8) (val : BitVec 8)
  deriving DecidableEq, Repr

/-- `CLASSIFY(v)` (R175; formats R110, R111). -/
def classify (v : TlmValue) : Telemetry :=
  if v.getLsbD 8 then
    if v = 0xFFF#12 then .erpmStopped
    else .erpm ((v.extractLsb' 0 9).setWidth 16 <<< (v.extractLsb' 9 3).toNat)
  else .slot (v.extractLsb' 9 3).toFin (v.extractLsb' 0 8)

/-- Where a valid telemetry value goes (R180, R181). -/
def routeValue (v : TlmValue) (r : Motor) : Motor :=
  match classify v with
  | .erpmStopped => { r with erpmUs := 0#16, erpmStopped := true }
  | .erpm period => { r with erpmUs := period, erpmStopped := false }
  | .slot sel val => { r with tlmSlot := r.tlmSlot.set sel val }

/-- The effect of a decode result on an instance's record (R176 to R181). -/
def applyResult (res : DecodeResult) (r : Motor) : Motor :=
  match res with
  | .noEdge => r
  | .badGcr => { r with tlmCnt := r.tlmCnt + 1#32 }
  | .badCsum => { r with tlmCnt := r.tlmCnt + 1#32 }
  | .ok v => routeValue v { r with tlmCnt := r.tlmCnt + 1#32, tlmOkCnt := r.tlmOkCnt + 1#32, tlmValue := v }

/-- `TLM_UPDATE(m, cap)` on the record of `m` (R176). -/
def tlmUpdate (p : Params) (cap : List CapPair) (r : Motor) : Motor :=
  applyResult (decodeCapture cap (timingOf p r.cls).bitNs) r

end Sys2Proof.Machine
end

