-- ==== Sys2Proof/Machine/HalfDuplex.lean ====
section
/-!
DEFINITION. The Half-Duplex State Machine: SEND and the services TX_DONE and RX_DONE (spec/44_half_duplex.md R210 to R225).
-/

namespace Sys2Proof.Machine

/-- The park of a bidirectional SEND: the line driven high and handed to the transmit channel (R212, R214). -/
def State.park (s : State) (m : MotIdx) : State :=
  if (s.motor m).bidir then (s.emit (.pinSet (s.motor m).pin true)).lineToTx m else s

/-- The part of SEND that starts a transmission on channel `c`: park, load, `st <- TRANSMITTING`, start (R212). -/
def startTransmission (p : Params) (m : MotIdx) (c : Chan) (a : Nat) (tlm : Bool) (s : State) : State :=
  ((((s.park m).txLoad c (encodeTrain p a tlm (s.motor m).cls (s.motor m).bidir)).setSt m .transmitting).txStart c)

/-- SEND of the value `a` before clamping, its tests in the order of R212 (R213, R215, R264). -/
def sendOp (p : Params) (m : BitVec 4) (a : Nat) (tlm : Bool) (s : State) : Result :=
  match motorOf p m with
  | none => raise .badIndex s
  | some k =>
    if (s.motor k).bound = false then raise .notBound s
    else if (s.motor k).st = .transmitting then
      match p.sendWhileTx with
      | .drop => raise .busyDropped s
      | .refuse => .refused .sendWhileTransmitting
    else
      match (s.motor k).txCh with
      | none => .fault (.noTxChannel k)
      | some c => .next ((startTransmission p k c a tlm s).respond 0#32)

/-- SEND (R212). -/
def execSend (m : BitVec 4) (tlm : Bool) (value : BitVec 16) (s : State) : Result :=
  sendOp Config.params m value.toNat tlm s

/-- The TX_DONE service of channel `c` owned by `m` (R216), from any `st` (R217). -/
def txDone (m : MotIdx) (c : Chan) (s : State) : Result :=
  if (s.motor m).bidir then
    match (s.motor m).rxCh with
    | none => .fault (.noRxChannel m)
    | some r => .next (((((s.clearTxDone c).lineToRx m).enablePullUp m).rxArm r).setSt m .awaitingReply)
  else .next ((s.clearTxDone c).setSt m .idle)

/-- The end of RX_DONE: only an instance that awaits a reply gets its line back and becomes idle (R221, R222). -/
def State.endReply (s : State) (m : MotIdx) : State :=
  if (s.motor m).st = .awaitingReply then (s.lineToTx m).setSt m .idle else s

/-- The RX_DONE service of channel `c` owned by `m` (R220): take, read, decode and update, release, end of the reply. -/
def rxDone (p : Params) (m : MotIdx) (c : Chan) (s : State) : Result :=
  match ((s.clearRxDone c).rxTake c).readCapture c with
  | none => .fault (.captureUnreadable c)
  | some cap =>
    .next (((((s.clearRxDone c).rxTake c).modMotor m (tlmUpdate p cap)).rxRelease c).endReply m)

end Sys2Proof.Machine
end

