-- ==== Sys2Proof/Machine/Facade.lean ====
section
/-!
DEFINITION. The Motor Instance operations NOP, THROTTLE, COMMAND, READ (spec/45_facade.md R240 to R250) and the register view
READ selects from (spec/30_encoding.md R117, spec/10_state.md R37).
-/

namespace Sys2Proof.Machine

/-- NOP (R250). -/
def execNop (s : State) : Result := .next (s.respond 0#32)

/-- THROTTLE (R244). -/
def throttleOp (p : Params) (m : BitVec 4) (tlm : Bool) (t : BitVec 16) (s : State) : Result :=
  sendOp p m (throttleValue t) tlm s

/-- THROTTLE (R244). -/
def execThrottle (m : BitVec 4) (tlm : Bool) (t : BitVec 16) (s : State) : Result :=
  throttleOp Config.params m tlm t s

/-- COMMAND (R245): a code of 48 or more is ignored. -/
def commandOp (p : Params) (m : BitVec 4) (tlm : Bool) (code : BitVec 16) (s : State) : Result :=
  if 48 ≤ code.toNat then raise .cmdOutOfRange s else sendOp p m code.toNat tlm s

/-- COMMAND (R245). -/
def execCommand (m : BitVec 4) (tlm : Bool) (code : BitVec 16) (s : State) : Result :=
  commandOp Config.params m tlm code s

/-- The 2-bit code of `st` (R28). -/
def stCode : HdState → BitVec 2
  | .idle => 0#2
  | .transmitting => 1#2
  | .awaitingReply => 2#2

/-- The 1-bit code of `line` (R29). -/
def lineCode : LineOwner → BitVec 1
  | .tx => 0#1
  | .rx => 1#1

/-- The 4-bit code of a channel index or NONE = 0xF (R25, R26). -/
def channelCode : Option Chan → BitVec 4
  | none => 0xF#4
  | some c => BitVec.ofNat 4 c.val

/-- `STATUS(m)` (R37). -/
def statusWord (r : Motor) : Word :=
  r.pin ++ 0#5 ++ r.cls ++ channelCode r.rxCh ++ channelCode r.txCh ++ 0#1 ++ BitVec.ofBool r.erpmStopped ++
    BitVec.ofBool r.pullup ++ lineCode r.line ++ stCode r.st ++ BitVec.ofBool r.bidir ++ BitVec.ofBool r.bound

/-- `Sel(m, sel)` (R117). -/
def selectWord (p : Params) (r : Motor) (sel : BitVec 8) : Word :=
  match sel.toNat with
  | 0x00 => r.tlmValue.setWidth 32
  | 0x01 => r.erpmUs.setWidth 32
  | 0x02 => r.tlmCnt
  | 0x03 => r.tlmOkCnt
  | 0x04 => statusWord r
  | 0x05 => saturate32 (minInterval p r.cls)
  | 0x08 => r.tlmSlot[0].setWidth 32
  | 0x09 => r.tlmSlot[1].setWidth 32
  | 0x0A => r.tlmSlot[2].setWidth 32
  | 0x0B => r.tlmSlot[3].setWidth 32
  | 0x0C => r.tlmSlot[4].setWidth 32
  | 0x0D => r.tlmSlot[5].setWidth 32
  | 0x0E => r.tlmSlot[6].setWidth 32
  | 0x0F => r.tlmSlot[7].setWidth 32
  | _ => 0#32

/-- READ (R248): one response word, no side effect (R69). -/
def readOp (p : Params) (m : BitVec 4) (sel : BitVec 8) (s : State) : Result :=
  match motorOf p m with
  | none => raise .badIndex s
  | some k => .next (s.respond (selectWord p (s.motor k) sel))

/-- READ (R248). -/
def execRead (m : BitVec 4) (sel : BitVec 8) (s : State) : Result :=
  readOp Config.params m sel s

end Sys2Proof.Machine
end

