-- ==== Sys2Proof/Machine/Handler.lean ====
section
/-!
DEFINITION. The peripheral's events EV_TX and EV_RX and the handler run ISR (spec/60_exceptions.md R270 to R278).
-/

namespace Sys2Proof.Machine

/-- The peripheral's transmit-complete event on channel `c` (R270): `tx_st[c] <- 1`; the transmission is over (R47 (i)). -/
def transmitComplete (c : Chan) (s : State) : State :=
  (s.setInFlight c false).setTxDoneBit c true

/-- EV_TX (R270). An event on a channel that does not exist does nothing (R115). The contract of R270 is not enforced, log 14. -/
def evTxOp (p : Params) (c : BitVec 4) (s : State) : Result :=
  match channelOf p c with
  | none => .next s
  | some k => .next (transmitComplete k s)

/-- EV_TX (R270). -/
def execEvTx (c : BitVec 4) (s : State) : Result := evTxOp Config.params c s

/-- The peripheral's receive-complete event on channel `c` with a capture of at most 21 pairs (R271, R65): the pairs and their
number are stored, `rx_own[c] <- DONE`, `rx_st[c] <- 1`; one armed capture is over (R47 (ii)). -/
def receiveComplete (c : Chan) (capture : List CapPair) (h : capture.length < capMax + 1) (s : State) : State :=
  (((((s.storeRx (rxIndex c 0) capture).setCapLen c ⟨capture.length, h⟩).setCapOwner c .done).setRxDoneBit c true).setArmed c
    (s.armed c - 1))

/-- EV_RX (R271). An event on a channel that does not exist does nothing (R115); a capture of more than 21 pairs is none (R104).
The contract of R271 is not enforced, log 14. -/
def evRxOp (p : Params) (c : BitVec 4) (capture : List CapPair) (s : State) : Result :=
  match channelOf p c with
  | none => .next s
  | some k =>
    if h : capture.length < capMax + 1 then .next (receiveComplete k capture h s) else .refused .captureTooLong

/-- EV_RX (R271). -/
def execEvRx (c : BitVec 4) (capture : List CapPair) (s : State) : Result := evRxOp Config.params c capture s

/-- The order of a handler run: the `j`-th bit serviced is picked by `choice j` among those still to service; `fuel` bounds the
number of picks. Any permutation of the bits is the order of some choice (R273). -/
def arrange {α : Type} (choice : Nat → Nat) : Nat → Nat → List α → List α
  | 0, _, l => l
  | _ + 1, _, [] => []
  | _ + 1, _, [x] => [x]
  | fuel + 1, j, x :: xs =>
    ((x :: xs).getD (choice j % (x :: xs).length) x) ::
      arrange choice fuel (j + 1) ((x :: xs).eraseIdx (choice j % (x :: xs).length))

/-- `ServiceOrder(T, R)` for the run with free choice number `n` (R273). -/
def serviceOrder (p : Params) (n : Nat) (bits : List (EvKind × Chan)) : List (EvKind × Chan) :=
  arrange (p.serviceChoice n) bits.length 0 bits

/-- The service of one set bit (R272): TX_DONE or RX_DONE of the owning instance, or only the clear when there is none
(R275). -/
def serviceBit (p : Params) (bit : EvKind × Chan) (s : State) : Result :=
  match bit.1, s.route bit.1 bit.2 with
  | .tx, some m => txDone m bit.2 s
  | .tx, none => .next (s.clearTxDone bit.2)
  | .rx, some m => rxDone p m bit.2 s
  | .rx, none => .next (s.clearRxDone bit.2)

/-- The services of a run, one after the other (R272). -/
def serviceAll (p : Params) : List (EvKind × Chan) → State → Result
  | [], s => .next s
  | bit :: bits, s => (serviceBit p bit s).andThen (serviceAll p bits)

/-- One handler run: the bits set at entry are read once and each is serviced (R272, R274). A run with no bit set does
nothing. -/
def isrOp (p : Params) (s : State) : Result :=
  if (s.pending p).isEmpty then .next s
  else serviceAll p (serviceOrder p s.choices (s.pending p)) s.nextChoice

/-- ISR (R272). -/
def execIsr (s : State) : Result := isrOp Config.params s

end Sys2Proof.Machine
end

