-- ==== Sys2Proof/Machine/Reserved.lean ====
section
/-!
DEFINITION. The reserved opcodes 0x6, 0x7, 0xB to 0xF: no-ops with response 0 (spec/30_encoding.md R116, R118).
-/

namespace Sys2Proof.Machine

/-- A reserved command word: nothing but the response 0 (R116). -/
def reservedOp (s : State) : Result := .next (s.respond 0#32)

/-- Opcode 0x6 (R116). -/
def execReserved6 (s : State) : Result := reservedOp s

/-- Opcode 0x7 (R116). -/
def execReserved7 (s : State) : Result := reservedOp s

/-- Opcode 0xB (R116). -/
def execReservedB (s : State) : Result := reservedOp s

/-- Opcode 0xC (R116). -/
def execReservedC (s : State) : Result := reservedOp s

/-- Opcode 0xD (R116). -/
def execReservedD (s : State) : Result := reservedOp s

/-- Opcode 0xE (R116). -/
def execReservedE (s : State) : Result := reservedOp s

/-- Opcode 0xF (R116). -/
def execReservedF (s : State) : Result := reservedOp s

end Sys2Proof.Machine
end

