-- ==== Sys2Proof/Machine/Dispatch.lean ====
section
/-!
DEFINITION. One arm per constructor of `Instr`, each one call of its meaning (spec/30_encoding.md R113).
-/

namespace Sys2Proof.Machine

def exec (i : Instr) (s : State) : Host.Outcome State Fault Refusal :=
  match i with
  | .nop => Sys2Proof.Machine.execNop s
  | .bringup m pin code => Sys2Proof.Machine.execBringup m pin code s
  | .throttle m tlm t => Sys2Proof.Machine.execThrottle m tlm t s
  | .command m tlm code => Sys2Proof.Machine.execCommand m tlm code s
  | .send m tlm value => Sys2Proof.Machine.execSend m tlm value s
  | .read m sel => Sys2Proof.Machine.execRead m sel s
  | .reserved6 => Sys2Proof.Machine.execReserved6 s
  | .reserved7 => Sys2Proof.Machine.execReserved7 s
  | .evTx c => Sys2Proof.Machine.execEvTx c s
  | .evRx c capture => Sys2Proof.Machine.execEvRx c capture s
  | .isr => Sys2Proof.Machine.execIsr s
  | .reservedB => Sys2Proof.Machine.execReservedB s
  | .reservedC => Sys2Proof.Machine.execReservedC s
  | .reservedD => Sys2Proof.Machine.execReservedD s
  | .reservedE => Sys2Proof.Machine.execReservedE s
  | .reservedF => Sys2Proof.Machine.execReservedF s

end Sys2Proof.Machine
end

