-- ==== Sys2Proof/Machine/Step.lean ====
section
/-!
DEFINITION. One step of the machine: the first word at the command port is taken, decoded and run. The block fetches no stored
program (spec/10_state.md R51); with no word at the port it waits (spec/70_reset_and_hazards.md R290). Log 1, log 2.
-/

namespace Sys2Proof.Machine

/-- One step of one agent (R10, R72, R112, R119). -/
def step (s : State) : Host.Outcome State Fault Refusal :=
  match s.takeInput with
  | none => waitForHost s
  | some (inp, s') =>
    match decode inp with
    | .ok i => exec i s'
    | .error e => .refused (.badInput e)

/-- The state with the given word, and no capture, put at the command port before every other, so that the next step takes
it. -/
def State.withFetchWord (s : State) (nbits w : Nat) : State :=
  s.setInputs (inputOfBits nbits w :: s.inputs)

end Sys2Proof.Machine
end

