-- ==== Sys2Proof/Machine/AtParams.lean ====
section
/-!
DEFINITION. The machine at any parameters (spec/00_scope.md R9): `exec` and `step` are these at `Config.params`, so another pool size,
timing table or policy is shown by giving it here.
-/

namespace Sys2Proof.Machine

/-- The meaning of an instruction at the parameters `p`. -/
def execAt (p : Params) (i : Instr) (s : State) : Result :=
  match i with
  | .nop => execNop s
  | .bringup m pin code => bringupOp p m pin code s
  | .throttle m tlm t => throttleOp p m tlm t s
  | .command m tlm code => commandOp p m tlm code s
  | .send m tlm value => sendOp p m value.toNat tlm s
  | .read m sel => readOp p m sel s
  | .reserved6 => execReserved6 s
  | .reserved7 => execReserved7 s
  | .evTx c => evTxOp p c s
  | .evRx c capture => evRxOp p c capture s
  | .isr => isrOp p s
  | .reservedB => execReservedB s
  | .reservedC => execReservedC s
  | .reservedD => execReservedD s
  | .reservedE => execReservedE s
  | .reservedF => execReservedF s

/-- One step at the parameters `p`. -/
def stepAt (p : Params) (s : State) : Result :=
  match s.takeInput with
  | none => waitForHost s
  | some (inp, s') =>
    match decode inp with
    | .ok i => execAt p i s'
    | .error e => .refused (.badInput e)

end Sys2Proof.Machine
end

