-- ==== Sys2Proof/Machine/Reply.lean ====
section
/-!
DEFINITION. The reference reply encoder of spec/95_test_vectors.md section 3 (D39): test apparatus, not part of the block. It
builds the capture that spells a telemetry value, for statements about DECODE (spec/42_decoder.md R182).
-/

namespace Sys2Proof.Machine

/-- `Fwd`: the forward map of R109. -/
def gcrFwd (n : BitVec 4) : BitVec 5 :=
  match n.toNat with
  | 0x0 => 0x19#5
  | 0x1 => 0x1B#5
  | 0x2 => 0x12#5
  | 0x3 => 0x13#5
  | 0x4 => 0x1D#5
  | 0x5 => 0x15#5
  | 0x6 => 0x16#5
  | 0x7 => 0x17#5
  | 0x8 => 0x1A#5
  | 0x9 => 0x09#5
  | 0xA => 0x0A#5
  | 0xB => 0x0B#5
  | 0xC => 0x1E#5
  | 0xD => 0x0D#5
  | 0xE => 0x0E#5
  | _ => 0x0F#5

/-- The reply word `{v, c}` of a telemetry value. -/
def replyWord (v : TlmValue) : BitVec 16 := v ++ checksum v true

/-- The 20-bit GCR value of a reply word. -/
def replyGcr (v : TlmValue) : BitVec 20 :=
  gcrFwd ((replyWord v).extractLsb' 12 4) ++ gcrFwd ((replyWord v).extractLsb' 8 4) ++
    gcrFwd ((replyWord v).extractLsb' 4 4) ++ gcrFwd ((replyWord v).extractLsb' 0 4)

/-- The levels after a first level, each the level before it XOR the next GCR bit. -/
def levelsAfter (prev : Bool) : List Bool → List Bool
  | [] => []
  | g :: gs => (prev ^^ g) :: levelsAfter (prev ^^ g) gs

/-- The 21 levels of the raw reply, bit 20 first; bit 20 is 0. -/
def replyLevels (v : TlmValue) : List Bool :=
  false :: levelsAfter false ((List.range 20).map fun i => (replyGcr v).getLsbD (19 - i))

/-- The maximal runs of equal levels, as lengths and levels. -/
def runsOf : List Bool → List (Nat × Bool)
  | [] => []
  | b :: bs =>
    match runsOf bs with
    | [] => [(1, b)]
    | (n, l) :: rest => if l = b then (n + 1, l) :: rest else (1, b) :: (n, l) :: rest

/-- The runs of the reply of `v`, a last run of level 1 dropped. -/
def replyRuns (v : TlmValue) : List (Nat × Bool) :=
  match (runsOf (replyLevels v)).getLast? with
  | some (_, true) => (runsOf (replyLevels v)).dropLast
  | _ => runsOf (replyLevels v)

/-- `REPLY(v, P)`. -/
def reply (v : TlmValue) (bitNs : Nat) : List CapPair :=
  ((replyRuns v).map fun r => { dur := BitVec.ofNat 32 (r.1 * bitNs), level := r.2 }) ++ [{ dur := 0#32, level := true }]

end Sys2Proof.Machine
end

