-- ==== Sys2Proof/Safety.lean ====
section
/-!
DEFINITION. What counts as a good state and a contract-abiding peripheral, and the predicates the statements are written in
(spec/10_state.md R24 to R27, R43, spec/44_half_duplex.md R217, R225, spec/60_exceptions.md R270, R271).
-/

namespace Sys2Proof.Machine

/-! ### Invariants kept by every step -/

/-- A record as R24, R25, R26 say it is; an unbound slot holds the reset values (R248, D21). -/
structure MotorCoherent (r : Motor) : Prop where
  direction : r.bound = true → r.bidir = classBidir r.cls
  transmit  : r.bound = true → r.txCh ≠ none
  receive   : r.bound = true → r.rxCh.isSome = r.bidir
  distinct  : r.bound = true → r.txCh ≠ r.rxCh
  unbound   : r.bound = false → r = Motor.reset

/-- The table invariants (ii) to (iv) of R43; (i) holds because an entry is one index. -/
structure TablesCoherent (s : State) : Prop where
  pool : ∀ c m, s.owner c = some m ↔
    ((s.motor m).bound = true ∧ ((s.motor m).txCh = some c ∨ (s.motor m).rxCh = some c))
  txMap : ∀ c m, s.txOwner c = some m ↔ ((s.motor m).bound = true ∧ (s.motor m).txCh = some c)
  rxMap : ∀ c m, s.rxOwner c = some m ↔ ((s.motor m).bound = true ∧ (s.motor m).rxCh = some c)
  oneRole : ∀ c, s.txOwner c = none ∨ s.rxOwner c = none

/-- The half-duplex invariants of R225 (ii), (iii) that are about state. -/
structure LineCoherent (r : Motor) : Prop where
  unidirectional : r.bidir = false → r.st ≠ .awaitingReply ∧ r.line = .tx ∧ r.pullup = false
  listening : r.line = .rx ↔ r.st = .awaitingReply

/-- The table entries at `N_CH` and above, which are no part of a block with the parameters `p`, hold their reset values (log 5). -/
structure AbsentUnused (p : Params) (s : State) : Prop where
  motors : ∀ m, p.nMot ≤ m.val → s.motor m = Motor.reset
  tables : ∀ c, p.nCh ≤ c.val → s.owner c = none ∧ s.txOwner c = none ∧ s.rxOwner c = none
  bits : ∀ c, p.nCh ≤ c.val → s.txDoneBit c = false ∧ s.rxDoneBit c = false
  captures : ∀ c, p.nCh ≤ c.val → s.capLen c = 0 ∧ s.capOwner c = .periph
  hidden : ∀ c, p.nCh ≤ c.val → s.inFlight c = false ∧ s.armed c = 0

/-- The buffers of a block with the parameters `p` are in canonical form (R71), every pair below `rx_len[c]` has a value, and no buffer
is left in the handler's hands between steps (R65). -/
structure BuffersCoherent (p : Params) (s : State) : Prop where
  txForm : s.txBuf.wf (nSlots * p.nCh)
  rxForm : s.rxBuf.wf (capMax * p.nCh)
  written : ∀ c : Chan, ∀ i, i < s.capLen c → (s.rxBuf.read (rxIndex c i)).isSome = true
  released : ∀ c, s.capOwner c ≠ .handler

/-- The invariant of a block with the parameters `p` that needs no assumption on the peripheral. -/
structure Inv (p : Params) (s : State) : Prop where
  motors  : ∀ m, MotorCoherent (s.motor m)
  tables  : TablesCoherent s
  lines   : ∀ m, LineCoherent (s.motor m)
  buffers : BuffersCoherent p s
  absent  : AbsentUnused p s

/-! ### The peripheral's contract (R217, R270, R271) -/

/-- The step is one the peripheral's contract allows: EV_TX only while a transmission is in flight on the channel, EV_RX only while
a capture is armed on it and the peripheral owns the buffer. Every other step is allowed. -/
def ContractAllows (p : Params) (i : Instr) (s : State) : Prop :=
  match i with
  | .evTx c => ∀ k, channelOf p c = some k → s.inFlight k = true
  | .evRx c _ => ∀ k, channelOf p c = some k → 0 < s.armed k ∧ s.capOwner k = .periph
  | _ => True

/-- What holds besides `Inv` while the peripheral keeps its contract (R225 (i)). -/
structure FlowCoherent (p : Params) (s : State) : Prop where
  inv : Inv p s
  transmitting : ∀ m c, (s.motor m).bound = true → (s.motor m).txCh = some c →
    ((s.motor m).st = .transmitting ↔ (s.inFlight c = true ∨ s.txDoneBit c = true))
  once : ∀ c, ¬ (s.inFlight c = true ∧ s.txDoneBit c = true)
  txOwned : ∀ c, s.txOwner c = none → s.inFlight c = false ∧ s.txDoneBit c = false
  rxOwned : ∀ c, s.rxOwner c = none → s.armed c = 0 ∧ s.rxDoneBit c = false
  rxDone : ∀ c, s.rxDoneBit c = true ↔ s.capOwner c = .done

/-! ### Frames -/

/-- The identity of an instance (R27). -/
structure SameIdentity (r r' : Motor) : Prop where
  bound : r'.bound = r.bound
  pin : r'.pin = r.pin
  cls : r'.cls = r.cls
  bidir : r'.bidir = r.bidir
  txCh : r'.txCh = r.txCh
  rxCh : r'.rxCh = r.rxCh

/-- The telemetry fields of an instance (R31 to R36). -/
structure SameTelemetry (r r' : Motor) : Prop where
  tlmValue : r'.tlmValue = r.tlmValue
  erpmUs : r'.erpmUs = r.erpmUs
  erpmStopped : r'.erpmStopped = r.erpmStopped
  tlmSlot : r'.tlmSlot = r.tlmSlot
  tlmCnt : r'.tlmCnt = r.tlmCnt
  tlmOkCnt : r'.tlmOkCnt = r.tlmOkCnt

/-- Only the response word `w` was given: every other field of the state is as before. -/
def OnlyResponds (w : Word) (s t : State) : Prop :=
  t = { s with responses := s.responses ++ [w] }

/-- The effect of a transmission of the value `a` by instance `m` on its channel `c` from `s` to `t` (R212): the actions, the
record of `m`, the sixteen slots of `TXBUF(c)`, the transmission in flight, the response 0, and nothing else. -/
structure Transmits (p : Params) (m : MotIdx) (c : Chan) (a : Nat) (tlm : Bool) (s t : State) : Prop where
  record : t.motor m = { s.motor m with
    st := .transmitting
    line := if (s.motor m).bidir then .tx else (s.motor m).line }
  others : ∀ m', m' ≠ m → t.motor m' = s.motor m'
  actions : t.trace = s.trace ++
    (if (s.motor m).bidir then [.pinSet (s.motor m).pin true, .lineToTx m] else []) ++
    [.txLoad c (encodeTrain p a tlm (s.motor m).cls (s.motor m).bidir), .txStart c]
  loaded : ∀ i : Fin nSlots,
    t.txSlot c i = (encodeTrain p a tlm (s.motor m).cls (s.motor m).bidir)[i.val]?
  elsewhere : ∀ c', c' ≠ c → ∀ i, t.txSlot c' i = s.txSlot c' i
  flying : ∀ c', t.inFlight c' = if c' = c then true else s.inFlight c'
  response : t.responses = s.responses ++ [0#32]
  rest : t = { s with
    mot := t.mot, txBuf := t.txBuf, txFlight := t.txFlight, trace := t.trace, responses := t.responses }

end Sys2Proof.Machine
end

