-- ==== Sys2Proof/Certificates/Slice0/Obligations.lean ====
section
/-!
DEFINITION. The statements for the provers. Where a statement says `t = { s with f := t.f, … }` it is the frame: every field of the
state but those named is unchanged.
-/

open Sys2Proof Sys2Proof.Machine

/-! ### Reset, decoding and the step -/

/-- R53: the value of every field after reset. The contents of the buffers are unspecified there. -/
def Obligations.ResetPutsEveryFieldAtItsValue : Prop :=
  (∀ m, State.reset.motor m =
    { bound := false, pin := 0#8, cls := 0#3, bidir := false, txCh := none, rxCh := none, st := .idle, line := .tx,
      pullup := false, tlmValue := 0#12, erpmUs := 0#16, erpmStopped := false, tlmSlot := Vector.replicate 8 0#8,
      tlmCnt := 0#32, tlmOkCnt := 0#32 }) ∧
  (∀ c, State.reset.owner c = none ∧ State.reset.txOwner c = none ∧ State.reset.rxOwner c = none ∧
    State.reset.txDoneBit c = false ∧ State.reset.rxDoneBit c = false ∧
    State.reset.capOwner c = .periph ∧ State.reset.capLen c = 0) ∧
  State.reset.trace = []

/-- Every word of spec/95_test_vectors.md section 2.9 decodes to the operation it is listed for: the table, the seven reserved words,
the words with reserved bits set and the READs of an undefined selector. -/
def Obligations.ListedCommandWordsDecode : Prop :=
  decode ⟨0x00000000#32, []⟩ = .ok .nop ∧
  decode ⟨0x10000406#32, []⟩ = .ok (.bringup 0#4 4#8 6#4) ∧
  decode ⟨0x11000500#32, []⟩ = .ok (.bringup 1#4 5#8 0#4) ∧
  decode ⟨0x200103E8#32, []⟩ = .ok (.throttle 0#4 true 1000#16) ∧
  decode ⟨0x23000000#32, []⟩ = .ok (.throttle 3#4 false 0#16) ∧
  decode ⟨0x3101002F#32, []⟩ = .ok (.command 1#4 true 47#16) ∧
  decode ⟨0x31000030#32, []⟩ = .ok (.command 1#4 false 48#16) ∧
  decode ⟨0x40010416#32, []⟩ = .ok (.send 0#4 true 1046#16) ∧
  decode ⟨0x41000BB8#32, []⟩ = .ok (.send 1#4 false 3000#16) ∧
  decode ⟨0x32000000#32, []⟩ = .ok (.command 2#4 false 0#16) ∧
  decode ⟨0x50000000#32, []⟩ = .ok (.read 0#4 0#8) ∧
  decode ⟨0x50000001#32, []⟩ = .ok (.read 0#4 1#8) ∧
  decode ⟨0x50000002#32, []⟩ = .ok (.read 0#4 2#8) ∧
  decode ⟨0x50000003#32, []⟩ = .ok (.read 0#4 3#8) ∧
  decode ⟨0x50000004#32, []⟩ = .ok (.read 0#4 4#8) ∧
  decode ⟨0x50000005#32, []⟩ = .ok (.read 0#4 5#8) ∧
  decode ⟨0x5200000F#32, []⟩ = .ok (.read 2#4 15#8) ∧
  decode ⟨0x80000000#32, []⟩ = .ok (.evTx 0#4) ∧
  decode ⟨0x91000000#32, [⟨1333#32, false⟩]⟩ = .ok (.evRx 1#4 [⟨1333#32, false⟩]) ∧
  decode ⟨0xA0000000#32, []⟩ = .ok .isr ∧
  decode ⟨0x60000000#32, []⟩ = .ok .reserved6 ∧
  decode ⟨0x70000000#32, []⟩ = .ok .reserved7 ∧
  decode ⟨0xB0000000#32, []⟩ = .ok .reservedB ∧
  decode ⟨0xC0000000#32, []⟩ = .ok .reservedC ∧
  decode ⟨0xD0000000#32, []⟩ = .ok .reservedD ∧
  decode ⟨0xE0000000#32, []⟩ = .ok .reservedE ∧
  decode ⟨0xF0000000#32, []⟩ = .ok .reservedF ∧
  decode ⟨0x40FF0416#32, []⟩ = .ok (.send 0#4 true 1046#16) ∧
  decode ⟨0x40FE0416#32, []⟩ = .ok (.send 0#4 false 1046#16) ∧
  decode ⟨0x50000006#32, []⟩ = .ok (.read 0#4 6#8) ∧
  decode ⟨0x50000010#32, []⟩ = .ok (.read 0#4 16#8) ∧
  decode ⟨0x50000104#32, []⟩ = .ok (.read 0#4 4#8)

/-- R112 to R119: an encoded well-formed instruction decodes to itself. -/
def Obligations.DecodeOfEncodeIsTheInstruction : Prop :=
  ∀ i : Instr, i.wellFormed = true → decode (encode i) = .ok i

/-- R113, R114, R116: two words that agree on the bits their opcode names decode to one instruction; every other bit is ignored. That
an ISR word's `W[27:24]` is among the ignored bits is the model's choice, log 21. -/
def Obligations.DecodeIgnoresReservedBits : Prop :=
  ∀ (w w' : Word) (capture : List CapPair),
    (∀ i, i < 32 → 28 ≤ i → w'.getLsbD i = w.getLsbD i) →
    ((1 ≤ (opField w).toNat ∧ (opField w).toNat ≤ 5 ∨ (opField w).toNat = 8 ∨ (opField w).toNat = 9) →
      ∀ i, i < 28 → 24 ≤ i → w'.getLsbD i = w.getLsbD i) →
    ((opField w).toNat = 1 → ∀ i, i < 16 → 8 ≤ i → w'.getLsbD i = w.getLsbD i) →
    ((opField w).toNat = 1 → ∀ i, i < 4 → w'.getLsbD i = w.getLsbD i) →
    ((2 ≤ (opField w).toNat ∧ (opField w).toNat ≤ 4) → ∀ i, i < 17 → w'.getLsbD i = w.getLsbD i) →
    ((opField w).toNat = 5 → ∀ i, i < 8 → w'.getLsbD i = w.getLsbD i) →
    decode ⟨w', capture⟩ = decode ⟨w, capture⟩

/-- A step takes the first word at the port and is `exec` of the instruction it decodes to, at the state without that word. How
words come to the port, and that a step at an empty port changes nothing, is the model's choice, log 1. -/
def Obligations.StepRunsTheDecodedInstruction : Prop :=
  (∀ (s : State) (inp : Input) (rest : List Input) (i : Instr),
    s.inputs = inp :: rest → decode inp = .ok i → i.wellFormed = true → step s = exec i { s with inputs := rest }) ∧
  ∀ s : State, s.inputs = [] → step s = .next s

/-! ### NOP, reserved opcodes, READ -/

/-- R250: NOP does nothing but respond 0. -/
def Obligations.NopOnlyRespondsZero : Prop :=
  ∀ s : State, ∃ t, exec .nop s = .next t ∧ OnlyResponds 0#32 s t

/-- R116, first sentence: a reserved opcode does nothing but respond 0. -/
def Obligations.ReservedOpcodesOnlyRespondZero : Prop :=
  ∀ (s : State) (i : Instr),
    i ∈ [Instr.reserved6, .reserved7, .reservedB, .reservedC, .reservedD, .reservedE, .reservedF] →
    ∃ t, exec i s = .next t ∧ OnlyResponds 0#32 s t

/-- R117, R248: READ responds the selected word, 0 for an undefined selector or an index that is none, and changes nothing else. -/
def Obligations.ReadRespondsTheSelectedWord : Prop :=
  ∀ (m : BitVec 4) (sel : BitVec 8) (s : State),
    (∀ k : MotIdx, m.toNat = k.val → k.val < Config.params.nMot → ∃ w t, exec (.read m sel) s = .next t ∧ OnlyResponds w s t ∧
      (sel = 0x00#8 → w.toNat = (s.motor k).tlmValue.toNat) ∧
      (sel = 0x01#8 → w.toNat = (s.motor k).erpmUs.toNat) ∧
      (sel = 0x02#8 → w = (s.motor k).tlmCnt) ∧
      (sel = 0x03#8 → w = (s.motor k).tlmOkCnt) ∧
      (sel = 0x04#8 → w = statusWord (s.motor k)) ∧
      (sel = 0x05#8 → w.toNat = min (minInterval Config.params (s.motor k).cls) 0xFFFFFFFF) ∧
      (∀ i : Fin 8, sel.toNat = 8 + i.val → w.toNat = ((s.motor k).tlmSlot[i]).toNat) ∧
      (sel.toNat = 6 ∨ sel.toNat = 7 ∨ 16 ≤ sel.toNat → w = 0#32)) ∧
    (Config.params.nMot ≤ m.toNat → ∃ t, exec (.read m sel) s = .next t ∧ OnlyResponds 0#32 s t)

/-- R37: the fields of the STATUS word. -/
def Obligations.StatusWordHoldsItsFields : Prop :=
  ∀ r : Motor,
    (statusWord r).getLsbD 0 = r.bound ∧
    (statusWord r).getLsbD 1 = r.bidir ∧
    (statusWord r).extractLsb' 2 2 = (match r.st with | .idle => 0#2 | .transmitting => 1#2 | .awaitingReply => 2#2) ∧
    (statusWord r).getLsbD 4 = decide (r.line = .rx) ∧
    (statusWord r).getLsbD 5 = r.pullup ∧
    (statusWord r).getLsbD 6 = r.erpmStopped ∧
    (statusWord r).getLsbD 7 = false ∧
    ((statusWord r).extractLsb' 8 4).toNat = (match r.txCh with | none => 15 | some c => c.val) ∧
    ((statusWord r).extractLsb' 12 4).toNat = (match r.rxCh with | none => 15 | some c => c.val) ∧
    (statusWord r).extractLsb' 16 3 = r.cls ∧
    (statusWord r).extractLsb' 19 5 = 0#5 ∧
    (statusWord r).extractLsb' 24 8 = r.pin

/-- R135: MININTERVAL is the frame's length rounded up, plus the gap, plus the reply window of a bidirectional class. -/
def Obligations.MinIntervalIsFrameGapAndReply : Prop :=
  ∀ (p : Params) (cls : SpeedClass), p.Admissible →
    (minInterval p cls : Int) =
      ⌈(16 * ((p.timing cls).tpb : ℚ)) * ((p.tickNum : ℚ) / (p.tickDen : ℚ))⌉ + p.gapNs +
        (if cls.getLsbD 2 = true then p.replyNs else 0)

/-! ### The codec -/

/-- R141: the checksum is the fold of the payload, inverted when bidirectional; what the four nibbles XOR to is the spec's own inference
there. -/
def Obligations.ChecksumFoldsThreeNibbles : Prop :=
  ∀ v12 : Payload,
    (checksum v12 false).toNat = (v12.toNat ^^^ (v12.toNat >>> 4) ^^^ (v12.toNat >>> 8)) % 16 ∧
    checksum v12 true = ~~~ checksum v12 false ∧
    (v12.extractLsb' 8 4 ^^^ v12.extractLsb' 4 4 ^^^ v12.extractLsb' 0 4 ^^^ checksum v12 false) = 0x0#4 ∧
    (v12.extractLsb' 8 4 ^^^ v12.extractLsb' 4 4 ^^^ v12.extractLsb' 0 4 ^^^ checksum v12 true) = 0xF#4

/-- R142: the frame of a value, clamped to 2047 before the checksum. -/
def Obligations.FrameIsValueFlagAndChecksum : Prop :=
  ∀ (a : Nat) (tlm bidir : Bool),
    (frame a tlm bidir).toNat =
      (2 * min a 2047 + tlm.toNat) * 16 + (checksum (BitVec.ofNat 12 (2 * min a 2047 + tlm.toNat)) bidir).toNat

/-- R97: class codes 0 to 7 are the classes, the others the default class. -/
def Obligations.ClassCodeIsNormalised : Prop :=
  ∀ (p : Params) (code : BitVec 4),
    (code.toNat ≤ 7 → (normClass p code).toNat = code.toNat) ∧ (8 ≤ code.toNat → normClass p code = p.defaultClass)

/-- R100: the places of the four fields of a slot word. -/
def Obligations.SlotWordHoldsTwoHalves : Prop :=
  (∀ x : Slot,
    (packSlot x).extractLsb' 0 15 = x.dur0 ∧ (packSlot x).getLsbD 15 = x.lvl0 ∧
    (packSlot x).extractLsb' 16 15 = x.dur1 ∧ (packSlot x).getLsbD 31 = x.lvl1 ∧ unpackSlot (packSlot x) = x) ∧
  ∀ w : SlotWord, packSlot (unpackSlot w) = w

/-- R98, R101, R102, R143: the sixteen slots of an encoded value, for every admissible timing table. -/
def Obligations.EncodeBuildsSixteenSlots : Prop :=
  ∀ (p : Params) (a : Nat) (tlm : Bool) (cls : SpeedClass) (bidir : Bool), p.Admissible →
    (encodeTrain p a tlm cls bidir).length = 16 ∧
    ∀ i, i < 16 → ∃ w, (encodeTrain p a tlm cls bidir)[i]? = some w ∧
      (unpackSlot w).lvl0 = !bidir ∧
      (unpackSlot w).lvl1 = bidir ∧
      (unpackSlot w).dur0.toNat =
        (if (frame a tlm bidir).getLsbD (15 - i) = true then (p.timing cls).t1h else (p.timing cls).t0h) ∧
      (unpackSlot w).dur1.toNat =
        (if i = 15 then 0
         else (p.timing cls).tpb -
          (if (frame a tlm bidir).getLsbD (15 - i) = true then (p.timing cls).t1h else (p.timing cls).t0h))

/-- R145: the frame is recovered from its train, and value, flag and checksum from the frame. -/
def Obligations.TrainGivesItsFrameBack : Prop :=
  ∀ (p : Params) (a : Nat) (tlm : Bool) (cls : SpeedClass) (bidir : Bool), p.Admissible →
    recoverFrame (p.timing cls) (encodeTrain p a tlm cls bidir) = frame a tlm bidir ∧
    (frame a tlm bidir).getLsbD 4 = tlm ∧
    (frame a tlm bidir).extractLsb' 0 4 = checksum ((frame a tlm bidir).extractLsb' 4 12) bidir ∧
    (a ≤ 2047 → ((frame a tlm bidir).extractLsb' 5 11).toNat = a)

/-- R144, the spec's own inference from R143 and R62: what the peripheral plays of a train, half by half, and for how long. -/
def Obligations.TrainPlaysWholeOnTheLine : Prop :=
  ∀ (p : Params) (a : Nat) (tlm : Bool) (cls : SpeedClass) (bidir : Bool), p.Admissible →
    (lineSignal (encodeTrain p a tlm cls bidir)).length = 31 ∧
    (∀ i, i < 16 → (lineSignal (encodeTrain p a tlm cls bidir))[2 * i]? =
      some (!bidir, if (frame a tlm bidir).getLsbD (15 - i) = true then (p.timing cls).t1h else (p.timing cls).t0h)) ∧
    (∀ i, i < 15 → (lineSignal (encodeTrain p a tlm cls bidir))[2 * i + 1]? =
      some (bidir, (p.timing cls).tpb -
        (if (frame a tlm bidir).getLsbD (15 - i) = true then (p.timing cls).t1h else (p.timing cls).t0h))) ∧
    playedTicks (encodeTrain p a tlm cls bidir) =
      15 * (p.timing cls).tpb +
        (if (frame a tlm bidir).getLsbD 0 = true then (p.timing cls).t1h else (p.timing cls).t0h)

/-! ### The telemetry decoder -/

/-- R165: the run length is the duration over the bit period, to the nearest, a tie rounding up. -/
def Obligations.RunLengthRoundsToNearest : Prop :=
  ∀ bitNs dur k : Nat, 0 < bitNs →
    (runLength bitNs dur = k ↔ (2 * k * bitNs ≤ 2 * dur + bitNs ∧ 2 * dur < (2 * k + 1) * bitNs))

/-- R162: which captures have no leading edge. That the empty capture is one is the spec's own inference there. -/
def Obligations.NoEdgeExactlyWithoutALowStart : Prop :=
  ∀ (cap : List CapPair) (bitNs : Nat),
    decodeCapture cap bitNs = .noEdge ↔
      (cap = [] ∨ ∃ q qs, cap = q :: qs ∧ (q.level = true ∨ q.dur = 0#32))

/-- R163, R164, R166, R167: bit `20 - i` of the raw reply is the level of bit time `i`, the bit times being the runs of the pairs
before the first of duration 0, cut at 21, and ones after them. That the list's end ends the bits, and the cut, are the spec's
own inference (R164 (iii)) and decision (R166). -/
def Obligations.RawReplyIsTheRunsThenOnes : Prop :=
  ∀ (bitNs : Nat) (cap : List CapPair) (i : Nat), i < 21 →
    (padRaw (accumulate bitNs cap 0 0).1 (accumulate bitNs cap 0 0).2).getLsbD (20 - i) =
      (((cap.takeWhile fun q => decide (q.dur ≠ 0#32)).flatMap fun q =>
        List.replicate (runLength bitNs q.dur.toNat) q.level).take 21).getD i true

/-- R108, R109: the GCR table is the inverse of the forward map of R109, and the sixteen other codes are invalid. The table is the
spec's own decision (D15), log 12. -/
def Obligations.GcrTableInvertsTheForwardMap : Prop :=
  ([0x0#4, 0x1#4, 0x2#4, 0x3#4, 0x4#4, 0x5#4, 0x6#4, 0x7#4, 0x8#4, 0x9#4, 0xA#4, 0xB#4, 0xC#4, 0xD#4, 0xE#4, 0xF#4].map gcrFwd =
    [0x19#5, 0x1B#5, 0x12#5, 0x13#5, 0x1D#5, 0x15#5, 0x16#5, 0x17#5, 0x1A#5, 0x09#5, 0x0A#5, 0x0B#5, 0x1E#5, 0x0D#5, 0x0E#5,
      0x0F#5]) ∧
  (∀ (code : BitVec 5) (n : BitVec 4), gcrRev code = some n ↔ code = gcrFwd n) ∧
  ∀ code ∈ [0x00#5, 0x01#5, 0x02#5, 0x03#5, 0x04#5, 0x05#5, 0x06#5, 0x07#5, 0x08#5, 0x0C#5, 0x10#5, 0x11#5, 0x14#5, 0x18#5,
    0x1C#5, 0x1F#5], gcrRev code = none

/-- R171: a capture with a leading edge is BAD_GCR exactly when one of the four windows is no valid code. -/
def Obligations.InvalidWindowIsBadGcr : Prop :=
  ∀ (q : CapPair) (qs : List CapPair) (bitNs : Nat), q.level = false → q.dur ≠ 0#32 →
    (decodeCapture (q :: qs) bitNs = .badGcr ↔
      ∃ k, k < 4 ∧ gcrRev (gcrWindow (unshift
        (padRaw (accumulate bitNs (q :: qs) 0 0).1 (accumulate bitNs (q :: qs) 0 0).2)) k) = none)

/-- R172, R173: with four valid windows the result is the upper three nibbles when the low nibble is their inverted XOR, and
BAD_CSUM when it is not. -/
def Obligations.ValidWindowsAreCheckedAndReturned : Prop :=
  ∀ (q : CapPair) (qs : List CapPair) (bitNs : Nat) (n3 n2 n1 n0 : BitVec 4), q.level = false → q.dur ≠ 0#32 →
    (let g := unshift (padRaw (accumulate bitNs (q :: qs) 0 0).1 (accumulate bitNs (q :: qs) 0 0).2)
     gcrRev (gcrWindow g 3) = some n3 ∧ gcrRev (gcrWindow g 2) = some n2 ∧
     gcrRev (gcrWindow g 1) = some n1 ∧ gcrRev (gcrWindow g 0) = some n0) →
    (n0 = ~~~(n3 ^^^ n2 ^^^ n1) →
      decodeCapture (q :: qs) bitNs = .ok (BitVec.ofNat 12 (256 * n3.toNat + 16 * n2.toNat + n1.toNat))) ∧
    (n0 ≠ ~~~(n3 ^^^ n2 ^^^ n1) → decodeCapture (q :: qs) bitNs = .badCsum)

/-- R182: the three properties of DECODE. A wrong first level and an invalid window are rejected; the capture that spells the reply
of `v`, each run off by less than half a bit period, decodes to `v`. The reply is spelt by the reference encoder (D39) over the GCR
table, which the spec decides on from general knowledge (D15) and the model presumes, log 12. -/
def Obligations.DecodeRecoversEveryReply : Prop :=
  (∀ (q : CapPair) (qs : List CapPair) (bitNs : Nat), q.level = true →
    ∀ v, decodeCapture (q :: qs) bitNs ≠ .ok v) ∧
  (∀ (cap : List CapPair) (bitNs k : Nat), k < 4 →
    gcrRev (gcrWindow (unshift (padRaw (accumulate bitNs cap 0 0).1 (accumulate bitNs cap 0 0).2)) k) = none →
    ∀ v, decodeCapture cap bitNs ≠ .ok v) ∧
  (∀ (v : TlmValue) (bitNs : Nat), 0 < bitNs → 3 * bitNs < 2 ^ 32 → decodeCapture (reply v bitNs) bitNs = .ok v) ∧
  ∀ (v : TlmValue) (bitNs : Nat) (cap : List CapPair),
    List.Forall₂ (fun (r : Nat × Bool) (q : CapPair) => q.level = r.2 ∧
      2 * (r.1 * bitNs) < 2 * q.dur.toNat + bitNs ∧ 2 * q.dur.toNat < 2 * (r.1 * bitNs) + bitNs) (replyRuns v) cap →
    decodeCapture (cap ++ [⟨0#32, true⟩]) bitNs = .ok v

/-- R175: the two kinds of a telemetry value and the stopped pattern. -/
def Obligations.ClassifySplitsOnBitEight : Prop :=
  ∀ v : TlmValue,
    (v = 0xFFF#12 → classify v = .erpmStopped) ∧
    (v.getLsbD 8 = true → v ≠ 0xFFF#12 →
      ∃ period, classify v = .erpm period ∧ period.toNat = (v.toNat % 512) * 2 ^ (v.toNat / 512) ∧
        256 ≤ period.toNat ∧ period.toNat ≤ 65280) ∧
    (v.getLsbD 8 = false →
      ∃ sel val, classify v = .slot sel val ∧ sel.val = v.toNat / 512 ∧ val.toNat = v.toNat % 256)

/-- R176 to R181: what a capture does to the telemetry of its instance. -/
def Obligations.TelemetryUpdateFollowsTheResult : Prop :=
  ∀ (p : Params) (cap : List CapPair) (r : Motor),
    (decodeCapture cap (p.timing r.cls).bitNs = .noEdge → tlmUpdate p cap r = r) ∧
    (decodeCapture cap (p.timing r.cls).bitNs = .badGcr ∨ decodeCapture cap (p.timing r.cls).bitNs = .badCsum →
      tlmUpdate p cap r = { r with tlmCnt := r.tlmCnt + 1#32 }) ∧
    ∀ v, decodeCapture cap (p.timing r.cls).bitNs = .ok v →
      tlmUpdate p cap r = { r with
        tlmCnt := r.tlmCnt + 1#32
        tlmOkCnt := r.tlmOkCnt + 1#32
        tlmValue := v
        erpmUs := (tlmUpdate p cap r).erpmUs
        erpmStopped := (tlmUpdate p cap r).erpmStopped
        tlmSlot := (tlmUpdate p cap r).tlmSlot } ∧
      (v = 0xFFF#12 → (tlmUpdate p cap r).erpmUs = 0#16 ∧ (tlmUpdate p cap r).erpmStopped = true) ∧
      (v.getLsbD 8 = true → v ≠ 0xFFF#12 →
        (tlmUpdate p cap r).erpmUs.toNat = (v.toNat % 512) * 2 ^ (v.toNat / 512) ∧
        (tlmUpdate p cap r).erpmStopped = false) ∧
      (v.getLsbD 8 = true → (tlmUpdate p cap r).tlmSlot = r.tlmSlot) ∧
      (v.getLsbD 8 = false →
        (tlmUpdate p cap r).erpmUs = r.erpmUs ∧ (tlmUpdate p cap r).erpmStopped = r.erpmStopped ∧
        ∀ i : Fin 8, (tlmUpdate p cap r).tlmSlot[i] =
          if i.val = v.toNat / 512 then BitVec.ofNat 8 (v.toNat % 256) else r.tlmSlot[i])

/-! ### BRINGUP -/

/-- R191, R194, R196: BRINGUP of an unbound slot with enough channels free takes free channels, commits the instance and responds 1.
Which free channels is open (R192). -/
def Obligations.BringupCommitsTheInstance : Prop :=
  ∀ (m : BitVec 4) (pin : Pin) (code : BitVec 4) (s : State) (k : MotIdx),
    m.toNat = k.val → k.val < Config.params.nMot → (s.motor k).bound = false →
    (if (normClass Config.params code).getLsbD 2 = true then 2 else 1) ≤
      (Finset.univ.filter fun c : Chan => c.val < Config.params.nCh ∧ s.owner c = none).card →
    ∃ tx rx t, exec (.bringup m pin code) s = .next t ∧
      tx.val < Config.params.nCh ∧ s.owner tx = none ∧
      ((normClass Config.params code).getLsbD 2 = false → rx = none) ∧
      ((normClass Config.params code).getLsbD 2 = true → ∃ r, rx = some r ∧ r ≠ tx ∧ r.val < Config.params.nCh ∧ s.owner r = none) ∧
      t.motor k =
        { bound := true, pin := pin, cls := normClass Config.params code,
          bidir := (normClass Config.params code).getLsbD 2, txCh := some tx, rxCh := rx, st := .idle, line := .tx,
          pullup := false, tlmValue := 0#12, erpmUs := 0#16, erpmStopped := false, tlmSlot := Vector.replicate 8 0#8,
          tlmCnt := 0#32, tlmOkCnt := 0#32 } ∧
      (∀ j, j ≠ k → t.motor j = s.motor j) ∧
      (∀ c, t.owner c = if c = tx ∨ rx = some c then some k else s.owner c) ∧
      (∀ c, t.txOwner c = if c = tx then some k else s.txOwner c) ∧
      (∀ c, t.rxOwner c = if rx = some c then some k else s.rxOwner c) ∧
      t.trace = s.trace ++ [.cfgTx tx pin] ++ (match rx with | none => [] | some r => [.cfgRx r pin]) ∧
      t.responses = s.responses ++ [1#32] ∧
      t = { s with mot := t.mot, pool := t.pool, txMap := t.txMap, rxMap := t.rxMap, trace := t.trace,
                   responses := t.responses, choices := t.choices }

/-- R195, R197: BRINGUP of an index that is none, of a bound slot, or with too few free channels, responds 0 and changes nothing. -/
def Obligations.BringupFailureChangesNothing : Prop :=
  ∀ (m : BitVec 4) (pin : Pin) (code : BitVec 4) (s : State),
    (Config.params.nMot ≤ m.toNat ∨ (∃ k : MotIdx, m.toNat = k.val ∧ (s.motor k).bound = true) ∨
      (Finset.univ.filter fun c : Chan => c.val < Config.params.nCh ∧ s.owner c = none).card <
        (if (normClass Config.params code).getLsbD 2 = true then 2 else 1)) →
    ∃ t, exec (.bringup m pin code) s = .next t ∧ OnlyResponds 0#32 s t

/-- R191, R192: every free channel is the transmit channel that some allocation policy gives a unidirectional bind, also where it is
the only one free, and every pair of distinct free channels is what some policy gives a bidirectional bind. -/
def Obligations.BindAdmitsEveryFreeChoice : Prop :=
  ∀ (s : State) (p : Params) (tx : Chan), tx.val < p.nCh → s.owner tx = none →
    (∃ f, bindChannels { p with allocChoice := f } s false = some (tx, none)) ∧
    ∀ rx : Chan, rx.val < p.nCh → s.owner rx = none → rx ≠ tx →
      ∃ f, bindChannels { p with allocChoice := f } s true = some (tx, some rx)

/-- R43 (v), and R198, the spec's own inference from it: whatever the pool's capacity, the channels held are one for each bound
unidirectional instance and two for each bidirectional one, and their number is at most `N_CH`. -/
def Obligations.HeldChannelsAreCounted : Prop :=
  ∀ (p : Params) (s : State), Inv p s →
    (Finset.univ.filter fun c : Chan => s.owner c ≠ none).card =
      ∑ m : MotIdx, (if (s.motor m).bound = true then (if (s.motor m).bidir = true then 2 else 1) else 0) ∧
    (Finset.univ.filter fun c : Chan => s.owner c ≠ none).card ≤ p.nCh

/-! ### SEND, THROTTLE, COMMAND -/

/-- R212: SEND to a bound instance that is not transmitting transmits the value. -/
def Obligations.SendTransmitsTheValue : Prop :=
  ∀ (m : BitVec 4) (tlm : Bool) (value : BitVec 16) (s : State) (k : MotIdx) (c : Chan),
    m.toNat = k.val → k.val < Config.params.nMot → (s.motor k).bound = true → (s.motor k).st ≠ .transmitting →
    (s.motor k).txCh = some c →
    ∃ t, exec (.send m tlm value) s = .next t ∧ Transmits Config.params k c value.toNat tlm s t

/-- R215: SEND to an index that is none or to an unbound slot responds 0 and changes nothing. -/
def Obligations.SendToNoInstanceDoesNothing : Prop :=
  ∀ (m : BitVec 4) (tlm : Bool) (value : BitVec 16) (s : State),
    (Config.params.nMot ≤ m.toNat ∨ ∃ k : MotIdx, m.toNat = k.val ∧ (s.motor k).bound = false) →
    ∃ t, exec (.send m tlm value) s = .next t ∧ OnlyResponds 0#32 s t

/-- R213: while a transmission is in flight, a SEND is dropped by the machine, and by any parameters with `SendWhileTx` = drop, and
has no meaning under refuse. That the machine drops is the model's choice, log 11. -/
def Obligations.SendDuringATransmissionIsDropped : Prop :=
  ∀ (m : BitVec 4) (tlm : Bool) (s : State) (k : MotIdx),
    m.toNat = k.val → k.val < Config.params.nMot → (s.motor k).bound = true → (s.motor k).st = .transmitting →
    (∀ value : BitVec 16, ∃ t, exec (.send m tlm value) s = .next t ∧ OnlyResponds 0#32 s t) ∧
    ∀ (p : Params) (a : Nat), k.val < p.nMot →
      (p.sendWhileTx = .drop → ∃ t, sendOp p m a tlm s = .next t ∧ OnlyResponds 0#32 s t) ∧
      (p.sendWhileTx = .refuse → sendOp p m a tlm s = .refused .sendWhileTransmitting)

/-- R95, R244: THROTTLE transmits 48 plus the throttle, clamped to 2047. -/
def Obligations.ThrottleTransmitsTheOffsetValue : Prop :=
  ∀ (m : BitVec 4) (tlm : Bool) (th : BitVec 16) (s : State) (k : MotIdx) (c : Chan),
    m.toNat = k.val → k.val < Config.params.nMot → (s.motor k).bound = true → (s.motor k).st ≠ .transmitting →
    (s.motor k).txCh = some c →
    ∃ t, exec (.throttle m tlm th) s = .next t ∧ Transmits Config.params k c (min (48 + th.toNat) 2047) tlm s t

/-- R245: COMMAND with a code below 48 transmits the code. -/
def Obligations.CommandTransmitsTheCode : Prop :=
  ∀ (m : BitVec 4) (tlm : Bool) (code : BitVec 16) (s : State) (k : MotIdx) (c : Chan),
    code.toNat < 48 →
    m.toNat = k.val → k.val < Config.params.nMot → (s.motor k).bound = true → (s.motor k).st ≠ .transmitting →
    (s.motor k).txCh = some c →
    ∃ t, exec (.command m tlm code) s = .next t ∧ Transmits Config.params k c code.toNat tlm s t

/-- R245: COMMAND with a code of 48 or more responds 0 and changes nothing, whatever the instance. -/
def Obligations.CommandOutOfRangeIsIgnored : Prop :=
  ∀ (m : BitVec 4) (tlm : Bool) (code : BitVec 16) (s : State), 48 ≤ code.toNat →
    ∃ t, exec (.command m tlm code) s = .next t ∧ OnlyResponds 0#32 s t

/-- R244, R245 through R213, R215: THROTTLE and COMMAND to no instance, or during a transmission, respond 0 and change nothing (the
latter is the model's choice, log 11). -/
def Obligations.ThrottleAndCommandAreSilentLikeSend : Prop :=
  ∀ (m : BitVec 4) (tlm : Bool) (x : BitVec 16) (s : State),
    (Config.params.nMot ≤ m.toNat ∨ ∃ k : MotIdx, m.toNat = k.val ∧
      ((s.motor k).bound = false ∨ (s.motor k).st = .transmitting)) →
    (∃ t, exec (.throttle m tlm x) s = .next t ∧ OnlyResponds 0#32 s t) ∧
    ∃ t, exec (.command m tlm x) s = .next t ∧ OnlyResponds 0#32 s t

/-! ### Events and the handler -/

/-- R270, R115: EV_TX sets the transmit bit of its channel and ends the transmission there, and does nothing for a channel that is
none. -/
def Obligations.TransmitEventSetsItsBit : Prop :=
  ∀ (c : BitVec 4) (s : State),
    (∀ k : Chan, c.toNat = k.val → k.val < Config.params.nCh → ∃ t, exec (.evTx c) s = .next t ∧
      (∀ d, t.txDoneBit d = if d = k then true else s.txDoneBit d) ∧
      (∀ d, t.inFlight d = if d = k then false else s.inFlight d) ∧
      t = { s with txSt := t.txSt, txFlight := t.txFlight }) ∧
    (Config.params.nCh ≤ c.toNat → exec (.evTx c) s = .next s)

/-- R271, R115: EV_RX stores the capture and its length, hands the buffer over and sets the receive bit; it does nothing for a
channel that is none. That older pairs above the length stay listed is the model's choice, log 13 (U7 leaves them unspecified), and so
is the count of armed captures, one less, log 16 (U3 leaves a second arm open). -/
def Obligations.ReceiveEventDeliversTheCapture : Prop :=
  ∀ (c : BitVec 4) (capture : List CapPair) (s : State),
    (∀ k : Chan, c.toNat = k.val → k.val < Config.params.nCh → capture.length ≤ 21 → ∃ t, exec (.evRx c capture) s = .next t ∧
      (∀ i : Fin capMax, t.rxPair k i = if i.val < capture.length then capture[i.val]? else s.rxPair k i) ∧
      (∀ d, d ≠ k → ∀ i, t.rxPair d i = s.rxPair d i) ∧
      (∀ d, t.capLen d = if d = k then capture.length else s.capLen d) ∧
      (∀ d, t.capOwner d = if d = k then .done else s.capOwner d) ∧
      (∀ d, t.rxDoneBit d = if d = k then true else s.rxDoneBit d) ∧
      (∀ d, t.armed d = if d = k then s.armed d - 1 else s.armed d) ∧
      t = { s with rxBuf := t.rxBuf, rxLen := t.rxLen, rxOwn := t.rxOwn, rxSt := t.rxSt, rxArmed := t.rxArmed }) ∧
    (Config.params.nCh ≤ c.toNat → exec (.evRx c capture) s = .next s)

/-- R272, last sentence: a run with no bit set does nothing. -/
def Obligations.HandlerRunWithoutBitsDoesNothing : Prop :=
  ∀ s : State, (∀ c, c.val < Config.params.nCh → s.txDoneBit c = false ∧ s.rxDoneBit c = false) → exec .isr s = .next s

/-- R216: a run that finds one transmit bit makes a unidirectional owner idle and turns the line of a bidirectional owner around. The
count of armed captures, one more, is the model's choice, log 16. -/
def Obligations.TransmitDoneEndsTheTransmission : Prop :=
  ∀ (s : State) (c : Chan) (m : MotIdx), c.val < Config.params.nCh →
    (∀ d, s.txDoneBit d = decide (d = c)) → (∀ d, s.rxDoneBit d = false) → s.txOwner c = some m →
    ((s.motor m).bidir = false →
      ∃ t, exec .isr s = .next t ∧
        t.motor m = { s.motor m with st := .idle } ∧
        (∀ j, j ≠ m → t.motor j = s.motor j) ∧
        t.trace = s.trace ++ [.stClear .tx c] ∧
        (∀ d, t.txDoneBit d = false) ∧
        t = { s with mot := t.mot, trace := t.trace, txSt := t.txSt, choices := t.choices }) ∧
    ∀ r, (s.motor m).bidir = true → (s.motor m).rxCh = some r →
      ∃ t, exec .isr s = .next t ∧
        t.motor m = { s.motor m with st := .awaitingReply, line := .rx, pullup := true } ∧
        (∀ j, j ≠ m → t.motor j = s.motor j) ∧
        t.trace = s.trace ++ [.stClear .tx c, .lineToRx m, .pullUp (s.motor m).pin, .rxArm r] ∧
        (∀ d, t.txDoneBit d = false) ∧
        (∀ d, t.capOwner d = if d = r then .periph else s.capOwner d) ∧
        (∀ d, t.armed d = if d = r then s.armed d + 1 else s.armed d) ∧
        t = { s with mot := t.mot, trace := t.trace, txSt := t.txSt, rxOwn := t.rxOwn, rxArmed := t.rxArmed,
                     choices := t.choices }

/-- R220, R221, R222: a run that finds one receive bit takes the capture, updates the telemetry, releases the buffer and, only from
AWAITING_REPLY, gives the line back and makes the instance idle. -/
def Obligations.ReceiveDoneDecodesAndIdles : Prop :=
  ∀ (s : State) (c : Chan) (m : MotIdx) (cap : List CapPair), c.val < Config.params.nCh →
    (∀ d, s.txDoneBit d = false) → (∀ d, s.rxDoneBit d = decide (d = c)) → s.rxOwner c = some m →
    cap.length = s.capLen c → (∀ i : Fin capMax, i.val < cap.length → s.rxPair c i = cap[i.val]?) →
    ∃ t, exec .isr s = .next t ∧
      ((s.motor m).st = .awaitingReply →
        t.motor m = { tlmUpdate Config.params cap (s.motor m) with st := .idle, line := .tx } ∧
        t.trace = s.trace ++ [.stClear .rx c, .rxTake c, .rxRelease c, .lineToTx m]) ∧
      ((s.motor m).st ≠ .awaitingReply →
        t.motor m = tlmUpdate Config.params cap (s.motor m) ∧
        t.trace = s.trace ++ [.stClear .rx c, .rxTake c, .rxRelease c]) ∧
      (∀ j, j ≠ m → t.motor j = s.motor j) ∧
      (∀ d, t.rxDoneBit d = false) ∧
      (∀ d, t.capOwner d = if d = c then .periph else s.capOwner d) ∧
      t = { s with mot := t.mot, trace := t.trace, rxSt := t.rxSt, rxOwn := t.rxOwn, choices := t.choices }

/-- R275: a run that finds only bits of channels with no owner in that role clears them and does nothing else. -/
def Obligations.UnownedBitsAreOnlyCleared : Prop :=
  ∀ s : State,
    (∀ c, c.val < Config.params.nCh → s.txDoneBit c = true → s.txOwner c = none) →
    (∀ c, c.val < Config.params.nCh → s.rxDoneBit c = true → s.rxOwner c = none) →
    ∃ t, exec .isr s = .next t ∧
      (∀ c, c.val < Config.params.nCh → t.txDoneBit c = false ∧ t.rxDoneBit c = false) ∧
      (∃ l, t.trace = s.trace ++ l ∧ l.Nodup ∧ ∀ a, a ∈ l ↔
        ∃ c, c.val < Config.params.nCh ∧ ((a = .stClear .tx c ∧ s.txDoneBit c = true) ∨ (a = .stClear .rx c ∧
        s.rxDoneBit c = true))) ∧
      t = { s with txSt := t.txSt, rxSt := t.rxSt, trace := t.trace, choices := t.choices }

/-- R272, R274, R277: from every good state a run completes, and no status bit is left set. -/
def Obligations.HandlerRunServicesEveryBit : Prop :=
  ∀ s : State, Inv Config.params s → ∃ t, exec .isr s = .next t ∧ ∀ c, t.txDoneBit c = false ∧ t.rxDoneBit c = false

/-- R273: ServiceOrder gives a permutation of the bits it is given, and every permutation is what some parameter gives. That a run
follows it is HandlerRunServicesItsBitsInSomeOrder. -/
def Obligations.ServiceOrderIsAnyPermutation : Prop :=
  ∀ (p : Params) (n : Nat) (bits : List (EvKind × Chan)),
    (serviceOrder p n bits).Perm bits ∧
    ∀ order : List (EvKind × Chan), order.Perm bits →
      ∃ choice, serviceOrder { p with serviceChoice := choice } n bits = order

/-- R73, R273: in a good state the services of two instances commute: both orders complete and differ in the trace alone. -/
def Obligations.ServicesOfTwoInstancesCommute : Prop :=
  ∀ (p : Params) (s : State) (b b' : EvKind × Chan) (m m' : MotIdx), Inv p s →
    s.route b.1 b.2 = some m → s.route b'.1 b'.2 = some m' → m ≠ m' →
    ∃ t t', serviceAll p [b, b'] s = .next t ∧ serviceAll p [b', b] s = .next t' ∧
      t' = { t with trace := t'.trace } ∧ t'.trace.Perm t.trace

/-- R224 (iii), the spec's own inference: with both bits of one transmitting bidirectional instance set, the two orders of service
end in different states with the same counters. -/
def Obligations.LateReplyDependsOnTheOrder : Prop :=
  ∀ (p : Params) (s : State) (m : MotIdx) (c r : Chan), Inv p s →
    (s.motor m).bound = true → (s.motor m).txCh = some c → (s.motor m).rxCh = some r → (s.motor m).st = .transmitting →
    ∃ t t', serviceAll p [(.tx, c), (.rx, r)] s = .next t ∧ serviceAll p [(.rx, r), (.tx, c)] s = .next t' ∧
      (t.motor m).st = .idle ∧ (t.motor m).line = .tx ∧
      (t'.motor m).st = .awaitingReply ∧ (t'.motor m).line = .rx ∧
      SameTelemetry (t.motor m) (t'.motor m)

/-- Every stop of the model, by name, and that there is no other (logs 4 and 15, the model's choice). It stops on: a bound instance with
no transmit channel, a bidirectional one with no receive channel, a capture with a pair that has no value, a capture of more than 21
pairs, an input that is no word. The last three clauses are the converse. -/
def Obligations.StopsAreNamed : Prop :=
  (∀ (m : BitVec 4) (tlm : Bool) (x : BitVec 16) (s : State) (k : MotIdx),
    m.toNat = k.val → k.val < Config.params.nMot → (s.motor k).bound = true → (s.motor k).st ≠ .transmitting →
    (s.motor k).txCh = none →
    exec (.send m tlm x) s = .fault (.noTxChannel k) ∧ exec (.throttle m tlm x) s = .fault (.noTxChannel k) ∧
    (x.toNat < 48 → exec (.command m tlm x) s = .fault (.noTxChannel k))) ∧
  (∀ (s : State) (c : Chan) (m : MotIdx), c.val < Config.params.nCh →
    (∀ d, s.txDoneBit d = decide (d = c)) → (∀ d, s.rxDoneBit d = false) → s.txOwner c = some m →
    (s.motor m).bidir = true → (s.motor m).rxCh = none → exec .isr s = .fault (.noRxChannel m)) ∧
  (∀ (s : State) (c : Chan) (m : MotIdx) (i : Fin capMax), c.val < Config.params.nCh →
    (∀ d, s.txDoneBit d = false) → (∀ d, s.rxDoneBit d = decide (d = c)) → s.rxOwner c = some m →
    i.val < s.capLen c → s.rxPair c i = none → exec .isr s = .fault (.captureUnreadable c)) ∧
  (∀ (c : BitVec 4) (capture : List CapPair) (s : State) (k : Chan),
    c.toNat = k.val → k.val < Config.params.nCh → 21 < capture.length →
    exec (.evRx c capture) s = .refused .captureTooLong) ∧
  (∀ (s : State) (inp : Input) (rest : List Input) (e : DecodeError),
    s.inputs = inp :: rest → decode inp = .error e → step s = .refused (.badInput e)) ∧
  (∀ (i : Instr) (s : State) (e : Fault), exec i s = .fault e →
    (∃ (m : BitVec 4) (tlm : Bool) (x : BitVec 16) (k : MotIdx),
      (i = .send m tlm x ∨ i = .throttle m tlm x ∨ i = .command m tlm x ∧ x.toNat < 48) ∧ m.toNat = k.val ∧
      k.val < Config.params.nMot ∧ (s.motor k).bound = true ∧ (s.motor k).st ≠ .transmitting ∧ (s.motor k).txCh = none ∧
      e = .noTxChannel k) ∨
    (i = .isr ∧ ∃ (c : Chan) (m : MotIdx), c.val < Config.params.nCh ∧ s.txDoneBit c = true ∧ s.txOwner c = some m ∧
      (s.motor m).bidir = true ∧ (s.motor m).rxCh = none ∧ e = .noRxChannel m) ∨
    (i = .isr ∧ ∃ (c : Chan) (m : MotIdx) (j : Fin capMax), c.val < Config.params.nCh ∧ s.rxDoneBit c = true ∧
      s.rxOwner c = some m ∧ j.val < s.capLen c ∧ s.rxPair c j = none ∧ e = .captureUnreadable c)) ∧
  (∀ (i : Instr) (s : State) (e : Refusal), exec i s = .refused e →
    e = .captureTooLong ∧ ∃ (c : BitVec 4) (capture : List CapPair),
      i = .evRx c capture ∧ c.toNat < Config.params.nCh ∧ 21 < capture.length) ∧
  ∀ s : State,
    (∀ e, step s = .fault e → ∃ inp rest i, s.inputs = inp :: rest ∧ decode inp = .ok i ∧
      exec i { s with inputs := rest } = .fault e) ∧
    ∀ e, step s = .refused e → ∃ inp rest d, s.inputs = inp :: rest ∧ decode inp = .error d ∧ e = .badInput d

/-! ### Whole-machine rules -/

/-- The invariant, and what the peripheral's contract adds to it, hold after reset (R53). That nothing is in flight and nothing armed
after reset is the model's choice, log 16: R292 and U11 leave it open. -/
def Obligations.ResetIsGood : Prop :=
  Inv Config.params State.reset ∧ FlowCoherent Config.params State.reset

/-- R24 to R26, R43, R65, R225 (ii), (iii): every step from a good state that answers a next state answers a good one, and so it is at
any parameters, whatever the pool's capacity. -/
def Obligations.EveryStepKeepsTheInvariant : Prop :=
  (∀ s t : State, Inv Config.params s → step s = .next t → Inv Config.params t) ∧
  ∀ (p : Params) (s t : State), Inv p s → stepAt p s = .next t → Inv p t

/-- R260, R116: from a good state every step answers a next state, whatever word is at the port, as long as a capture stands beside
EV_RX only and holds at most 21 pairs. That SEND, THROTTLE and COMMAND go on during a transmission is the model's choice of
`SendWhileTx` = drop, log 11: under refuse, which R213 admits too, such a step has no meaning. -/
def Obligations.NoStepFromAGoodStateStops : Prop :=
  ∀ s : State, Inv Config.params s →
    (∀ inp rest, s.inputs = inp :: rest →
      inp.capture.length ≤ 21 ∧ ((opField inp.word).toNat ≠ 9 → inp.capture = [])) →
    ∃ t, step s = .next t

/-- R27, the spec's own inference: no step changes the identity of a bound instance. -/
def Obligations.IdentityNeverChanges : Prop :=
  ∀ (s t : State) (m : MotIdx), step s = .next t → (s.motor m).bound = true → SameIdentity (s.motor m) (t.motor m)

/-- R43, last sentence: from a good state no step changes a table entry that names an instance. -/
def Obligations.TableEntriesNeverChange : Prop :=
  ∀ (s t : State) (c : Chan) (m : MotIdx), Inv Config.params s → step s = .next t →
    (s.owner c = some m → t.owner c = some m) ∧
    (s.txOwner c = some m → t.txOwner c = some m) ∧
    (s.rxOwner c = some m → t.rxOwner c = some m)

/-- R75, R176: only a handler run changes the telemetry of a bound instance. -/
def Obligations.OnlyTheHandlerWritesTelemetry : Prop :=
  ∀ (i : Instr) (s t : State) (m : MotIdx), exec i s = .next t → i ≠ .isr → (s.motor m).bound = true →
    SameTelemetry (s.motor m) (t.motor m)

/-- R44: a status bit is set by its event alone and cleared by a handler run alone. -/
def Obligations.StatusBitsAreSetAndClearedByTheirAgents : Prop :=
  ∀ (i : Instr) (s t : State) (c : Chan), exec i s = .next t →
    (s.txDoneBit c = false → t.txDoneBit c = true → ∃ x, i = .evTx x ∧ x.toNat = c.val) ∧
    (s.rxDoneBit c = false → t.rxDoneBit c = true → ∃ x capture, i = .evRx x capture ∧ x.toNat = c.val) ∧
    (s.txDoneBit c = true → t.txDoneBit c = false → i = .isr) ∧
    (s.rxDoneBit c = true → t.rxDoneBit c = false → i = .isr)

/-- R48 (the responses by the model's choice, log 3): a step only appends to the trace and to the responses. -/
def Obligations.OutputsOnlyGrow : Prop :=
  ∀ s t : State, step s = .next t → s.trace <+: t.trace ∧ s.responses <+: t.responses

/-- R217, R225 (i), the spec's own inferences: while the peripheral keeps its contract, an instance is TRANSMITTING exactly while a
transmission is in flight on its channel or its completion waits for the handler; every step keeps this. -/
def Obligations.ContractKeepsTransmissionsTracked : Prop :=
  ∀ s t : State, FlowCoherent Config.params s →
    (∀ inp rest i, s.inputs = inp :: rest → decode inp = .ok i → ContractAllows Config.params i s) →
    step s = .next t → FlowCoherent Config.params t

/-- R225 (iv), the spec's own inference: while the peripheral keeps its contract, a train is loaded only on a channel with no
transmission in flight and no completion waiting. -/
def Obligations.TrainsAreLoadedOnIdleChannelsOnly : Prop :=
  ∀ (s t : State) (l : List Action) (c : Chan) (train : List SlotWord), FlowCoherent Config.params s → step s = .next t →
    t.trace = s.trace ++ l → .txLoad c train ∈ l → s.inFlight c = false ∧ s.txDoneBit c = false

/-- R225 (v), the spec's own inference: from every good state a bound instance reaches TRANSMITTING by at most one TX_DONE and one
SEND. -/
def Obligations.EveryInstanceCanSendAgain : Prop :=
  ∀ (s : State) (m : BitVec 4) (k : MotIdx) (c : Chan) (tlm : Bool) (value : BitVec 16), Inv Config.params s →
    m.toNat = k.val → (s.motor k).bound = true → (s.motor k).txCh = some c →
    ∃ s', (if (s.motor k).st = .transmitting then txDone k c s else .next s) = .next s' ∧
      ∃ t, exec (.send m tlm value) s' = .next t ∧ (t.motor k).st = .transmitting

/-! ### A whole handler run -/

/-- R272, R273, R274: a run is the services of exactly the status bits set at its entry, each once and in some order, and no bit is
cleared without its service; at any parameters, every order of them is the run under some ServiceOrder. The two sides differ at most
in the counter of free choices, which is the model's own field (log 10). -/
def Obligations.HandlerRunServicesItsBitsInSomeOrder : Prop :=
  (∀ s : State, ∃ (order : List (EvKind × Chan)) (u : State),
    order.Nodup ∧
    (∀ c : Chan, (EvKind.tx, c) ∈ order ↔ (c.val < Config.params.nCh ∧ s.txDoneBit c = true)) ∧
    (∀ c : Chan, (EvKind.rx, c) ∈ order ↔ (c.val < Config.params.nCh ∧ s.rxDoneBit c = true)) ∧
    u = { s with choices := u.choices } ∧
    exec .isr s = serviceAll Config.params order u) ∧
  ∀ (p : Params) (s : State) (order : List (EvKind × Chan)),
    order.Nodup →
    (∀ c : Chan, (EvKind.tx, c) ∈ order ↔ (c.val < p.nCh ∧ s.txDoneBit c = true)) →
    (∀ c : Chan, (EvKind.rx, c) ∈ order ↔ (c.val < p.nCh ∧ s.rxDoneBit c = true)) →
    ∃ (choice : Nat → Nat → Nat) (u : State), u = { s with choices := u.choices } ∧
      isrOp { p with serviceChoice := choice } s = serviceAll p order u
end

