-- ==== Sys2Proof/Laws/Config.lean ====
section
/-!
SUPPORT. What is known of the open parameters: the machine's parameters are admissible and drop a SEND during a transmission.
-/

namespace Sys2Proof

/-- `Timing.constrain` answers an admissible tuple. -/
theorem Timing.constrain_admissible (t : Timing) : t.constrain.Admissible := by
  unfold Timing.constrain
  split
  · assumption
  · decide

/-- Every admissible tuple is its own `Timing.constrain`. -/
theorem Timing.constrain_of_admissible {t : Timing} (h : t.Admissible) : t.constrain = t := if_pos h

@[simp] theorem Config.params_nCh : Config.params.nCh = 8 := rfl

@[simp] theorem Config.params_sendWhileTx : Config.params.sendWhileTx = .drop := rfl

/-- The machine's parameters are admissible (R132, D1). -/
theorem Config.params_admissible : Config.params.Admissible where
  pool := by decide
  timing _ := Timing.constrain_admissible _
  tickNum := Nat.succ_pos _
  tickDen := Nat.succ_pos _

/-- REF80 is admissible (R134). -/
theorem Params.reference_admissible : Params.reference.Admissible where
  pool := by decide
  timing := by decide
  tickNum := by decide
  tickDen := by decide

end Sys2Proof
end

