-- ==== Sys2Proof/Laws/State.lean ====
section
/-!
SUPPORT. One lemma per field or accessor per update of the state, true by `rfl` where the update leaves it alone, so that no later
proof unfolds a record update.
-/

namespace Sys2Proof.Machine

/-! ### `modMotor` -/

@[simp] theorem State.modMotor_pool (s : State) (m : MotIdx) (f : Motor → Motor) : (s.modMotor m f).pool = s.pool := rfl
@[simp] theorem State.modMotor_txMap (s : State) (m : MotIdx) (f : Motor → Motor) : (s.modMotor m f).txMap = s.txMap := rfl
@[simp] theorem State.modMotor_rxMap (s : State) (m : MotIdx) (f : Motor → Motor) : (s.modMotor m f).rxMap = s.rxMap := rfl
@[simp] theorem State.modMotor_txSt (s : State) (m : MotIdx) (f : Motor → Motor) : (s.modMotor m f).txSt = s.txSt := rfl
@[simp] theorem State.modMotor_rxSt (s : State) (m : MotIdx) (f : Motor → Motor) : (s.modMotor m f).rxSt = s.rxSt := rfl
@[simp] theorem State.modMotor_txBuf (s : State) (m : MotIdx) (f : Motor → Motor) : (s.modMotor m f).txBuf = s.txBuf := rfl
@[simp] theorem State.modMotor_rxBuf (s : State) (m : MotIdx) (f : Motor → Motor) : (s.modMotor m f).rxBuf = s.rxBuf := rfl
@[simp] theorem State.modMotor_rxLen (s : State) (m : MotIdx) (f : Motor → Motor) : (s.modMotor m f).rxLen = s.rxLen := rfl
@[simp] theorem State.modMotor_rxOwn (s : State) (m : MotIdx) (f : Motor → Motor) : (s.modMotor m f).rxOwn = s.rxOwn := rfl
@[simp] theorem State.modMotor_txFlight (s : State) (m : MotIdx) (f : Motor → Motor) : (s.modMotor m f).txFlight = s.txFlight := rfl
@[simp] theorem State.modMotor_rxArmed (s : State) (m : MotIdx) (f : Motor → Motor) : (s.modMotor m f).rxArmed = s.rxArmed := rfl
@[simp] theorem State.modMotor_trace (s : State) (m : MotIdx) (f : Motor → Motor) : (s.modMotor m f).trace = s.trace := rfl
@[simp] theorem State.modMotor_inputs (s : State) (m : MotIdx) (f : Motor → Motor) : (s.modMotor m f).inputs = s.inputs := rfl
@[simp] theorem State.modMotor_responses (s : State) (m : MotIdx) (f : Motor → Motor) : (s.modMotor m f).responses = s.responses := rfl
@[simp] theorem State.modMotor_choices (s : State) (m : MotIdx) (f : Motor → Motor) : (s.modMotor m f).choices = s.choices := rfl
@[simp] theorem State.modMotor_motor (s : State) (m : MotIdx) (f : Motor → Motor) (k : MotIdx) :
    (s.modMotor m f).motor k = if k = m then f (s.motor m) else s.motor k := by
  by_cases h : k = m
  · subst h; simp [State.modMotor, State.motor]
  · have h' : m.val ≠ k.val := fun e => h (Fin.ext e.symm)
    simp [State.modMotor, State.motor, h, h']
@[simp] theorem State.modMotor_owner (s : State) (m : MotIdx) (f : Motor → Motor) (d : Chan) : (s.modMotor m f).owner d = s.owner d := rfl
@[simp] theorem State.modMotor_txOwner (s : State) (m : MotIdx) (f : Motor → Motor) (d : Chan) : (s.modMotor m f).txOwner d = s.txOwner d := rfl
@[simp] theorem State.modMotor_rxOwner (s : State) (m : MotIdx) (f : Motor → Motor) (d : Chan) : (s.modMotor m f).rxOwner d = s.rxOwner d := rfl
@[simp] theorem State.modMotor_txDoneBit (s : State) (m : MotIdx) (f : Motor → Motor) (d : Chan) : (s.modMotor m f).txDoneBit d = s.txDoneBit d := rfl
@[simp] theorem State.modMotor_rxDoneBit (s : State) (m : MotIdx) (f : Motor → Motor) (d : Chan) : (s.modMotor m f).rxDoneBit d = s.rxDoneBit d := rfl
@[simp] theorem State.modMotor_capLen (s : State) (m : MotIdx) (f : Motor → Motor) (d : Chan) : (s.modMotor m f).capLen d = s.capLen d := rfl
@[simp] theorem State.modMotor_capOwner (s : State) (m : MotIdx) (f : Motor → Motor) (d : Chan) : (s.modMotor m f).capOwner d = s.capOwner d := rfl
@[simp] theorem State.modMotor_inFlight (s : State) (m : MotIdx) (f : Motor → Motor) (d : Chan) : (s.modMotor m f).inFlight d = s.inFlight d := rfl
@[simp] theorem State.modMotor_armed (s : State) (m : MotIdx) (f : Motor → Motor) (d : Chan) : (s.modMotor m f).armed d = s.armed d := rfl

/-! ### `setOwner` -/

@[simp] theorem State.setOwner_mot (s : State) (c : Chan) (v : Option MotIdx) : (s.setOwner c v).mot = s.mot := rfl
@[simp] theorem State.setOwner_txMap (s : State) (c : Chan) (v : Option MotIdx) : (s.setOwner c v).txMap = s.txMap := rfl
@[simp] theorem State.setOwner_rxMap (s : State) (c : Chan) (v : Option MotIdx) : (s.setOwner c v).rxMap = s.rxMap := rfl
@[simp] theorem State.setOwner_txSt (s : State) (c : Chan) (v : Option MotIdx) : (s.setOwner c v).txSt = s.txSt := rfl
@[simp] theorem State.setOwner_rxSt (s : State) (c : Chan) (v : Option MotIdx) : (s.setOwner c v).rxSt = s.rxSt := rfl
@[simp] theorem State.setOwner_txBuf (s : State) (c : Chan) (v : Option MotIdx) : (s.setOwner c v).txBuf = s.txBuf := rfl
@[simp] theorem State.setOwner_rxBuf (s : State) (c : Chan) (v : Option MotIdx) : (s.setOwner c v).rxBuf = s.rxBuf := rfl
@[simp] theorem State.setOwner_rxLen (s : State) (c : Chan) (v : Option MotIdx) : (s.setOwner c v).rxLen = s.rxLen := rfl
@[simp] theorem State.setOwner_rxOwn (s : State) (c : Chan) (v : Option MotIdx) : (s.setOwner c v).rxOwn = s.rxOwn := rfl
@[simp] theorem State.setOwner_txFlight (s : State) (c : Chan) (v : Option MotIdx) : (s.setOwner c v).txFlight = s.txFlight := rfl
@[simp] theorem State.setOwner_rxArmed (s : State) (c : Chan) (v : Option MotIdx) : (s.setOwner c v).rxArmed = s.rxArmed := rfl
@[simp] theorem State.setOwner_trace (s : State) (c : Chan) (v : Option MotIdx) : (s.setOwner c v).trace = s.trace := rfl
@[simp] theorem State.setOwner_inputs (s : State) (c : Chan) (v : Option MotIdx) : (s.setOwner c v).inputs = s.inputs := rfl
@[simp] theorem State.setOwner_responses (s : State) (c : Chan) (v : Option MotIdx) : (s.setOwner c v).responses = s.responses := rfl
@[simp] theorem State.setOwner_choices (s : State) (c : Chan) (v : Option MotIdx) : (s.setOwner c v).choices = s.choices := rfl
@[simp] theorem State.setOwner_motor (s : State) (c : Chan) (v : Option MotIdx) (k : MotIdx) : (s.setOwner c v).motor k = s.motor k := rfl
@[simp] theorem State.setOwner_owner (s : State) (c : Chan) (v : Option MotIdx) (d : Chan) :
    (s.setOwner c v).owner d = if d = c then v else s.owner d := by
  by_cases h : d = c
  · subst h; simp [State.setOwner, State.owner]
  · have h' : c.val ≠ d.val := fun e => h (Fin.ext e.symm)
    simp [State.setOwner, State.owner, h, h']
@[simp] theorem State.setOwner_txOwner (s : State) (c : Chan) (v : Option MotIdx) (d : Chan) : (s.setOwner c v).txOwner d = s.txOwner d := rfl
@[simp] theorem State.setOwner_rxOwner (s : State) (c : Chan) (v : Option MotIdx) (d : Chan) : (s.setOwner c v).rxOwner d = s.rxOwner d := rfl
@[simp] theorem State.setOwner_txDoneBit (s : State) (c : Chan) (v : Option MotIdx) (d : Chan) : (s.setOwner c v).txDoneBit d = s.txDoneBit d := rfl
@[simp] theorem State.setOwner_rxDoneBit (s : State) (c : Chan) (v : Option MotIdx) (d : Chan) : (s.setOwner c v).rxDoneBit d = s.rxDoneBit d := rfl
@[simp] theorem State.setOwner_capLen (s : State) (c : Chan) (v : Option MotIdx) (d : Chan) : (s.setOwner c v).capLen d = s.capLen d := rfl
@[simp] theorem State.setOwner_capOwner (s : State) (c : Chan) (v : Option MotIdx) (d : Chan) : (s.setOwner c v).capOwner d = s.capOwner d := rfl
@[simp] theorem State.setOwner_inFlight (s : State) (c : Chan) (v : Option MotIdx) (d : Chan) : (s.setOwner c v).inFlight d = s.inFlight d := rfl
@[simp] theorem State.setOwner_armed (s : State) (c : Chan) (v : Option MotIdx) (d : Chan) : (s.setOwner c v).armed d = s.armed d := rfl

/-! ### `setTxOwner` -/

@[simp] theorem State.setTxOwner_mot (s : State) (c : Chan) (v : Option MotIdx) : (s.setTxOwner c v).mot = s.mot := rfl
@[simp] theorem State.setTxOwner_pool (s : State) (c : Chan) (v : Option MotIdx) : (s.setTxOwner c v).pool = s.pool := rfl
@[simp] theorem State.setTxOwner_rxMap (s : State) (c : Chan) (v : Option MotIdx) : (s.setTxOwner c v).rxMap = s.rxMap := rfl
@[simp] theorem State.setTxOwner_txSt (s : State) (c : Chan) (v : Option MotIdx) : (s.setTxOwner c v).txSt = s.txSt := rfl
@[simp] theorem State.setTxOwner_rxSt (s : State) (c : Chan) (v : Option MotIdx) : (s.setTxOwner c v).rxSt = s.rxSt := rfl
@[simp] theorem State.setTxOwner_txBuf (s : State) (c : Chan) (v : Option MotIdx) : (s.setTxOwner c v).txBuf = s.txBuf := rfl
@[simp] theorem State.setTxOwner_rxBuf (s : State) (c : Chan) (v : Option MotIdx) : (s.setTxOwner c v).rxBuf = s.rxBuf := rfl
@[simp] theorem State.setTxOwner_rxLen (s : State) (c : Chan) (v : Option MotIdx) : (s.setTxOwner c v).rxLen = s.rxLen := rfl
@[simp] theorem State.setTxOwner_rxOwn (s : State) (c : Chan) (v : Option MotIdx) : (s.setTxOwner c v).rxOwn = s.rxOwn := rfl
@[simp] theorem State.setTxOwner_txFlight (s : State) (c : Chan) (v : Option MotIdx) : (s.setTxOwner c v).txFlight = s.txFlight := rfl
@[simp] theorem State.setTxOwner_rxArmed (s : State) (c : Chan) (v : Option MotIdx) : (s.setTxOwner c v).rxArmed = s.rxArmed := rfl
@[simp] theorem State.setTxOwner_trace (s : State) (c : Chan) (v : Option MotIdx) : (s.setTxOwner c v).trace = s.trace := rfl
@[simp] theorem State.setTxOwner_inputs (s : State) (c : Chan) (v : Option MotIdx) : (s.setTxOwner c v).inputs = s.inputs := rfl
@[simp] theorem State.setTxOwner_responses (s : State) (c : Chan) (v : Option MotIdx) : (s.setTxOwner c v).responses = s.responses := rfl
@[simp] theorem State.setTxOwner_choices (s : State) (c : Chan) (v : Option MotIdx) : (s.setTxOwner c v).choices = s.choices := rfl
@[simp] theorem State.setTxOwner_motor (s : State) (c : Chan) (v : Option MotIdx) (k : MotIdx) : (s.setTxOwner c v).motor k = s.motor k := rfl
@[simp] theorem State.setTxOwner_owner (s : State) (c : Chan) (v : Option MotIdx) (d : Chan) : (s.setTxOwner c v).owner d = s.owner d := rfl
@[simp] theorem State.setTxOwner_txOwner (s : State) (c : Chan) (v : Option MotIdx) (d : Chan) :
    (s.setTxOwner c v).txOwner d = if d = c then v else s.txOwner d := by
  by_cases h : d = c
  · subst h; simp [State.setTxOwner, State.txOwner]
  · have h' : c.val ≠ d.val := fun e => h (Fin.ext e.symm)
    simp [State.setTxOwner, State.txOwner, h, h']
@[simp] theorem State.setTxOwner_rxOwner (s : State) (c : Chan) (v : Option MotIdx) (d : Chan) : (s.setTxOwner c v).rxOwner d = s.rxOwner d := rfl
@[simp] theorem State.setTxOwner_txDoneBit (s : State) (c : Chan) (v : Option MotIdx) (d : Chan) : (s.setTxOwner c v).txDoneBit d = s.txDoneBit d := rfl
@[simp] theorem State.setTxOwner_rxDoneBit (s : State) (c : Chan) (v : Option MotIdx) (d : Chan) : (s.setTxOwner c v).rxDoneBit d = s.rxDoneBit d := rfl
@[simp] theorem State.setTxOwner_capLen (s : State) (c : Chan) (v : Option MotIdx) (d : Chan) : (s.setTxOwner c v).capLen d = s.capLen d := rfl
@[simp] theorem State.setTxOwner_capOwner (s : State) (c : Chan) (v : Option MotIdx) (d : Chan) : (s.setTxOwner c v).capOwner d = s.capOwner d := rfl
@[simp] theorem State.setTxOwner_inFlight (s : State) (c : Chan) (v : Option MotIdx) (d : Chan) : (s.setTxOwner c v).inFlight d = s.inFlight d := rfl
@[simp] theorem State.setTxOwner_armed (s : State) (c : Chan) (v : Option MotIdx) (d : Chan) : (s.setTxOwner c v).armed d = s.armed d := rfl

/-! ### `setRxOwner` -/

@[simp] theorem State.setRxOwner_mot (s : State) (c : Chan) (v : Option MotIdx) : (s.setRxOwner c v).mot = s.mot := rfl
@[simp] theorem State.setRxOwner_pool (s : State) (c : Chan) (v : Option MotIdx) : (s.setRxOwner c v).pool = s.pool := rfl
@[simp] theorem State.setRxOwner_txMap (s : State) (c : Chan) (v : Option MotIdx) : (s.setRxOwner c v).txMap = s.txMap := rfl
@[simp] theorem State.setRxOwner_txSt (s : State) (c : Chan) (v : Option MotIdx) : (s.setRxOwner c v).txSt = s.txSt := rfl
@[simp] theorem State.setRxOwner_rxSt (s : State) (c : Chan) (v : Option MotIdx) : (s.setRxOwner c v).rxSt = s.rxSt := rfl
@[simp] theorem State.setRxOwner_txBuf (s : State) (c : Chan) (v : Option MotIdx) : (s.setRxOwner c v).txBuf = s.txBuf := rfl
@[simp] theorem State.setRxOwner_rxBuf (s : State) (c : Chan) (v : Option MotIdx) : (s.setRxOwner c v).rxBuf = s.rxBuf := rfl
@[simp] theorem State.setRxOwner_rxLen (s : State) (c : Chan) (v : Option MotIdx) : (s.setRxOwner c v).rxLen = s.rxLen := rfl
@[simp] theorem State.setRxOwner_rxOwn (s : State) (c : Chan) (v : Option MotIdx) : (s.setRxOwner c v).rxOwn = s.rxOwn := rfl
@[simp] theorem State.setRxOwner_txFlight (s : State) (c : Chan) (v : Option MotIdx) : (s.setRxOwner c v).txFlight = s.txFlight := rfl
@[simp] theorem State.setRxOwner_rxArmed (s : State) (c : Chan) (v : Option MotIdx) : (s.setRxOwner c v).rxArmed = s.rxArmed := rfl
@[simp] theorem State.setRxOwner_trace (s : State) (c : Chan) (v : Option MotIdx) : (s.setRxOwner c v).trace = s.trace := rfl
@[simp] theorem State.setRxOwner_inputs (s : State) (c : Chan) (v : Option MotIdx) : (s.setRxOwner c v).inputs = s.inputs := rfl
@[simp] theorem State.setRxOwner_responses (s : State) (c : Chan) (v : Option MotIdx) : (s.setRxOwner c v).responses = s.responses := rfl
@[simp] theorem State.setRxOwner_choices (s : State) (c : Chan) (v : Option MotIdx) : (s.setRxOwner c v).choices = s.choices := rfl
@[simp] theorem State.setRxOwner_motor (s : State) (c : Chan) (v : Option MotIdx) (k : MotIdx) : (s.setRxOwner c v).motor k = s.motor k := rfl
@[simp] theorem State.setRxOwner_owner (s : State) (c : Chan) (v : Option MotIdx) (d : Chan) : (s.setRxOwner c v).owner d = s.owner d := rfl
@[simp] theorem State.setRxOwner_txOwner (s : State) (c : Chan) (v : Option MotIdx) (d : Chan) : (s.setRxOwner c v).txOwner d = s.txOwner d := rfl
@[simp] theorem State.setRxOwner_rxOwner (s : State) (c : Chan) (v : Option MotIdx) (d : Chan) :
    (s.setRxOwner c v).rxOwner d = if d = c then v else s.rxOwner d := by
  by_cases h : d = c
  · subst h; simp [State.setRxOwner, State.rxOwner]
  · have h' : c.val ≠ d.val := fun e => h (Fin.ext e.symm)
    simp [State.setRxOwner, State.rxOwner, h, h']
@[simp] theorem State.setRxOwner_txDoneBit (s : State) (c : Chan) (v : Option MotIdx) (d : Chan) : (s.setRxOwner c v).txDoneBit d = s.txDoneBit d := rfl
@[simp] theorem State.setRxOwner_rxDoneBit (s : State) (c : Chan) (v : Option MotIdx) (d : Chan) : (s.setRxOwner c v).rxDoneBit d = s.rxDoneBit d := rfl
@[simp] theorem State.setRxOwner_capLen (s : State) (c : Chan) (v : Option MotIdx) (d : Chan) : (s.setRxOwner c v).capLen d = s.capLen d := rfl
@[simp] theorem State.setRxOwner_capOwner (s : State) (c : Chan) (v : Option MotIdx) (d : Chan) : (s.setRxOwner c v).capOwner d = s.capOwner d := rfl
@[simp] theorem State.setRxOwner_inFlight (s : State) (c : Chan) (v : Option MotIdx) (d : Chan) : (s.setRxOwner c v).inFlight d = s.inFlight d := rfl
@[simp] theorem State.setRxOwner_armed (s : State) (c : Chan) (v : Option MotIdx) (d : Chan) : (s.setRxOwner c v).armed d = s.armed d := rfl

/-! ### `setTxDoneBit` -/

@[simp] theorem State.setTxDoneBit_mot (s : State) (c : Chan) (v : Bool) : (s.setTxDoneBit c v).mot = s.mot := rfl
@[simp] theorem State.setTxDoneBit_pool (s : State) (c : Chan) (v : Bool) : (s.setTxDoneBit c v).pool = s.pool := rfl
@[simp] theorem State.setTxDoneBit_txMap (s : State) (c : Chan) (v : Bool) : (s.setTxDoneBit c v).txMap = s.txMap := rfl
@[simp] theorem State.setTxDoneBit_rxMap (s : State) (c : Chan) (v : Bool) : (s.setTxDoneBit c v).rxMap = s.rxMap := rfl
@[simp] theorem State.setTxDoneBit_rxSt (s : State) (c : Chan) (v : Bool) : (s.setTxDoneBit c v).rxSt = s.rxSt := rfl
@[simp] theorem State.setTxDoneBit_txBuf (s : State) (c : Chan) (v : Bool) : (s.setTxDoneBit c v).txBuf = s.txBuf := rfl
@[simp] theorem State.setTxDoneBit_rxBuf (s : State) (c : Chan) (v : Bool) : (s.setTxDoneBit c v).rxBuf = s.rxBuf := rfl
@[simp] theorem State.setTxDoneBit_rxLen (s : State) (c : Chan) (v : Bool) : (s.setTxDoneBit c v).rxLen = s.rxLen := rfl
@[simp] theorem State.setTxDoneBit_rxOwn (s : State) (c : Chan) (v : Bool) : (s.setTxDoneBit c v).rxOwn = s.rxOwn := rfl
@[simp] theorem State.setTxDoneBit_txFlight (s : State) (c : Chan) (v : Bool) : (s.setTxDoneBit c v).txFlight = s.txFlight := rfl
@[simp] theorem State.setTxDoneBit_rxArmed (s : State) (c : Chan) (v : Bool) : (s.setTxDoneBit c v).rxArmed = s.rxArmed := rfl
@[simp] theorem State.setTxDoneBit_trace (s : State) (c : Chan) (v : Bool) : (s.setTxDoneBit c v).trace = s.trace := rfl
@[simp] theorem State.setTxDoneBit_inputs (s : State) (c : Chan) (v : Bool) : (s.setTxDoneBit c v).inputs = s.inputs := rfl
@[simp] theorem State.setTxDoneBit_responses (s : State) (c : Chan) (v : Bool) : (s.setTxDoneBit c v).responses = s.responses := rfl
@[simp] theorem State.setTxDoneBit_choices (s : State) (c : Chan) (v : Bool) : (s.setTxDoneBit c v).choices = s.choices := rfl
@[simp] theorem State.setTxDoneBit_motor (s : State) (c : Chan) (v : Bool) (k : MotIdx) : (s.setTxDoneBit c v).motor k = s.motor k := rfl
@[simp] theorem State.setTxDoneBit_owner (s : State) (c : Chan) (v : Bool) (d : Chan) : (s.setTxDoneBit c v).owner d = s.owner d := rfl
@[simp] theorem State.setTxDoneBit_txOwner (s : State) (c : Chan) (v : Bool) (d : Chan) : (s.setTxDoneBit c v).txOwner d = s.txOwner d := rfl
@[simp] theorem State.setTxDoneBit_rxOwner (s : State) (c : Chan) (v : Bool) (d : Chan) : (s.setTxDoneBit c v).rxOwner d = s.rxOwner d := rfl
@[simp] theorem State.setTxDoneBit_txDoneBit (s : State) (c : Chan) (v : Bool) (d : Chan) :
    (s.setTxDoneBit c v).txDoneBit d = if d = c then v else s.txDoneBit d := by
  by_cases h : d = c
  · subst h; simp [State.setTxDoneBit, State.txDoneBit]
  · have h' : c.val ≠ d.val := fun e => h (Fin.ext e.symm)
    simp [State.setTxDoneBit, State.txDoneBit, h, h']
@[simp] theorem State.setTxDoneBit_rxDoneBit (s : State) (c : Chan) (v : Bool) (d : Chan) : (s.setTxDoneBit c v).rxDoneBit d = s.rxDoneBit d := rfl
@[simp] theorem State.setTxDoneBit_capLen (s : State) (c : Chan) (v : Bool) (d : Chan) : (s.setTxDoneBit c v).capLen d = s.capLen d := rfl
@[simp] theorem State.setTxDoneBit_capOwner (s : State) (c : Chan) (v : Bool) (d : Chan) : (s.setTxDoneBit c v).capOwner d = s.capOwner d := rfl
@[simp] theorem State.setTxDoneBit_inFlight (s : State) (c : Chan) (v : Bool) (d : Chan) : (s.setTxDoneBit c v).inFlight d = s.inFlight d := rfl
@[simp] theorem State.setTxDoneBit_armed (s : State) (c : Chan) (v : Bool) (d : Chan) : (s.setTxDoneBit c v).armed d = s.armed d := rfl

/-! ### `setRxDoneBit` -/

@[simp] theorem State.setRxDoneBit_mot (s : State) (c : Chan) (v : Bool) : (s.setRxDoneBit c v).mot = s.mot := rfl
@[simp] theorem State.setRxDoneBit_pool (s : State) (c : Chan) (v : Bool) : (s.setRxDoneBit c v).pool = s.pool := rfl
@[simp] theorem State.setRxDoneBit_txMap (s : State) (c : Chan) (v : Bool) : (s.setRxDoneBit c v).txMap = s.txMap := rfl
@[simp] theorem State.setRxDoneBit_rxMap (s : State) (c : Chan) (v : Bool) : (s.setRxDoneBit c v).rxMap = s.rxMap := rfl
@[simp] theorem State.setRxDoneBit_txSt (s : State) (c : Chan) (v : Bool) : (s.setRxDoneBit c v).txSt = s.txSt := rfl
@[simp] theorem State.setRxDoneBit_txBuf (s : State) (c : Chan) (v : Bool) : (s.setRxDoneBit c v).txBuf = s.txBuf := rfl
@[simp] theorem State.setRxDoneBit_rxBuf (s : State) (c : Chan) (v : Bool) : (s.setRxDoneBit c v).rxBuf = s.rxBuf := rfl
@[simp] theorem State.setRxDoneBit_rxLen (s : State) (c : Chan) (v : Bool) : (s.setRxDoneBit c v).rxLen = s.rxLen := rfl
@[simp] theorem State.setRxDoneBit_rxOwn (s : State) (c : Chan) (v : Bool) : (s.setRxDoneBit c v).rxOwn = s.rxOwn := rfl
@[simp] theorem State.setRxDoneBit_txFlight (s : State) (c : Chan) (v : Bool) : (s.setRxDoneBit c v).txFlight = s.txFlight := rfl
@[simp] theorem State.setRxDoneBit_rxArmed (s : State) (c : Chan) (v : Bool) : (s.setRxDoneBit c v).rxArmed = s.rxArmed := rfl
@[simp] theorem State.setRxDoneBit_trace (s : State) (c : Chan) (v : Bool) : (s.setRxDoneBit c v).trace = s.trace := rfl
@[simp] theorem State.setRxDoneBit_inputs (s : State) (c : Chan) (v : Bool) : (s.setRxDoneBit c v).inputs = s.inputs := rfl
@[simp] theorem State.setRxDoneBit_responses (s : State) (c : Chan) (v : Bool) : (s.setRxDoneBit c v).responses = s.responses := rfl
@[simp] theorem State.setRxDoneBit_choices (s : State) (c : Chan) (v : Bool) : (s.setRxDoneBit c v).choices = s.choices := rfl
@[simp] theorem State.setRxDoneBit_motor (s : State) (c : Chan) (v : Bool) (k : MotIdx) : (s.setRxDoneBit c v).motor k = s.motor k := rfl
@[simp] theorem State.setRxDoneBit_owner (s : State) (c : Chan) (v : Bool) (d : Chan) : (s.setRxDoneBit c v).owner d = s.owner d := rfl
@[simp] theorem State.setRxDoneBit_txOwner (s : State) (c : Chan) (v : Bool) (d : Chan) : (s.setRxDoneBit c v).txOwner d = s.txOwner d := rfl
@[simp] theorem State.setRxDoneBit_rxOwner (s : State) (c : Chan) (v : Bool) (d : Chan) : (s.setRxDoneBit c v).rxOwner d = s.rxOwner d := rfl
@[simp] theorem State.setRxDoneBit_txDoneBit (s : State) (c : Chan) (v : Bool) (d : Chan) : (s.setRxDoneBit c v).txDoneBit d = s.txDoneBit d := rfl
@[simp] theorem State.setRxDoneBit_rxDoneBit (s : State) (c : Chan) (v : Bool) (d : Chan) :
    (s.setRxDoneBit c v).rxDoneBit d = if d = c then v else s.rxDoneBit d := by
  by_cases h : d = c
  · subst h; simp [State.setRxDoneBit, State.rxDoneBit]
  · have h' : c.val ≠ d.val := fun e => h (Fin.ext e.symm)
    simp [State.setRxDoneBit, State.rxDoneBit, h, h']
@[simp] theorem State.setRxDoneBit_capLen (s : State) (c : Chan) (v : Bool) (d : Chan) : (s.setRxDoneBit c v).capLen d = s.capLen d := rfl
@[simp] theorem State.setRxDoneBit_capOwner (s : State) (c : Chan) (v : Bool) (d : Chan) : (s.setRxDoneBit c v).capOwner d = s.capOwner d := rfl
@[simp] theorem State.setRxDoneBit_inFlight (s : State) (c : Chan) (v : Bool) (d : Chan) : (s.setRxDoneBit c v).inFlight d = s.inFlight d := rfl
@[simp] theorem State.setRxDoneBit_armed (s : State) (c : Chan) (v : Bool) (d : Chan) : (s.setRxDoneBit c v).armed d = s.armed d := rfl

/-! ### `setCapLen` -/

@[simp] theorem State.setCapLen_mot (s : State) (c : Chan) (v : Fin (capMax + 1)) : (s.setCapLen c v).mot = s.mot := rfl
@[simp] theorem State.setCapLen_pool (s : State) (c : Chan) (v : Fin (capMax + 1)) : (s.setCapLen c v).pool = s.pool := rfl
@[simp] theorem State.setCapLen_txMap (s : State) (c : Chan) (v : Fin (capMax + 1)) : (s.setCapLen c v).txMap = s.txMap := rfl
@[simp] theorem State.setCapLen_rxMap (s : State) (c : Chan) (v : Fin (capMax + 1)) : (s.setCapLen c v).rxMap = s.rxMap := rfl
@[simp] theorem State.setCapLen_txSt (s : State) (c : Chan) (v : Fin (capMax + 1)) : (s.setCapLen c v).txSt = s.txSt := rfl
@[simp] theorem State.setCapLen_rxSt (s : State) (c : Chan) (v : Fin (capMax + 1)) : (s.setCapLen c v).rxSt = s.rxSt := rfl
@[simp] theorem State.setCapLen_txBuf (s : State) (c : Chan) (v : Fin (capMax + 1)) : (s.setCapLen c v).txBuf = s.txBuf := rfl
@[simp] theorem State.setCapLen_rxBuf (s : State) (c : Chan) (v : Fin (capMax + 1)) : (s.setCapLen c v).rxBuf = s.rxBuf := rfl
@[simp] theorem State.setCapLen_rxOwn (s : State) (c : Chan) (v : Fin (capMax + 1)) : (s.setCapLen c v).rxOwn = s.rxOwn := rfl
@[simp] theorem State.setCapLen_txFlight (s : State) (c : Chan) (v : Fin (capMax + 1)) : (s.setCapLen c v).txFlight = s.txFlight := rfl
@[simp] theorem State.setCapLen_rxArmed (s : State) (c : Chan) (v : Fin (capMax + 1)) : (s.setCapLen c v).rxArmed = s.rxArmed := rfl
@[simp] theorem State.setCapLen_trace (s : State) (c : Chan) (v : Fin (capMax + 1)) : (s.setCapLen c v).trace = s.trace := rfl
@[simp] theorem State.setCapLen_inputs (s : State) (c : Chan) (v : Fin (capMax + 1)) : (s.setCapLen c v).inputs = s.inputs := rfl
@[simp] theorem State.setCapLen_responses (s : State) (c : Chan) (v : Fin (capMax + 1)) : (s.setCapLen c v).responses = s.responses := rfl
@[simp] theorem State.setCapLen_choices (s : State) (c : Chan) (v : Fin (capMax + 1)) : (s.setCapLen c v).choices = s.choices := rfl
@[simp] theorem State.setCapLen_motor (s : State) (c : Chan) (v : Fin (capMax + 1)) (k : MotIdx) : (s.setCapLen c v).motor k = s.motor k := rfl
@[simp] theorem State.setCapLen_owner (s : State) (c : Chan) (v : Fin (capMax + 1)) (d : Chan) : (s.setCapLen c v).owner d = s.owner d := rfl
@[simp] theorem State.setCapLen_txOwner (s : State) (c : Chan) (v : Fin (capMax + 1)) (d : Chan) : (s.setCapLen c v).txOwner d = s.txOwner d := rfl
@[simp] theorem State.setCapLen_rxOwner (s : State) (c : Chan) (v : Fin (capMax + 1)) (d : Chan) : (s.setCapLen c v).rxOwner d = s.rxOwner d := rfl
@[simp] theorem State.setCapLen_txDoneBit (s : State) (c : Chan) (v : Fin (capMax + 1)) (d : Chan) : (s.setCapLen c v).txDoneBit d = s.txDoneBit d := rfl
@[simp] theorem State.setCapLen_rxDoneBit (s : State) (c : Chan) (v : Fin (capMax + 1)) (d : Chan) : (s.setCapLen c v).rxDoneBit d = s.rxDoneBit d := rfl
@[simp] theorem State.setCapLen_capLen (s : State) (c : Chan) (v : Fin (capMax + 1)) (d : Chan) :
    (s.setCapLen c v).capLen d = if d = c then v.val else s.capLen d := by
  by_cases h : d = c
  · subst h; simp [State.setCapLen, State.capLen]
  · have h' : c.val ≠ d.val := fun e => h (Fin.ext e.symm)
    simp [State.setCapLen, State.capLen, h, h']
@[simp] theorem State.setCapLen_capOwner (s : State) (c : Chan) (v : Fin (capMax + 1)) (d : Chan) : (s.setCapLen c v).capOwner d = s.capOwner d := rfl
@[simp] theorem State.setCapLen_inFlight (s : State) (c : Chan) (v : Fin (capMax + 1)) (d : Chan) : (s.setCapLen c v).inFlight d = s.inFlight d := rfl
@[simp] theorem State.setCapLen_armed (s : State) (c : Chan) (v : Fin (capMax + 1)) (d : Chan) : (s.setCapLen c v).armed d = s.armed d := rfl

/-! ### `setCapOwner` -/

@[simp] theorem State.setCapOwner_mot (s : State) (c : Chan) (v : RxOwner) : (s.setCapOwner c v).mot = s.mot := rfl
@[simp] theorem State.setCapOwner_pool (s : State) (c : Chan) (v : RxOwner) : (s.setCapOwner c v).pool = s.pool := rfl
@[simp] theorem State.setCapOwner_txMap (s : State) (c : Chan) (v : RxOwner) : (s.setCapOwner c v).txMap = s.txMap := rfl
@[simp] theorem State.setCapOwner_rxMap (s : State) (c : Chan) (v : RxOwner) : (s.setCapOwner c v).rxMap = s.rxMap := rfl
@[simp] theorem State.setCapOwner_txSt (s : State) (c : Chan) (v : RxOwner) : (s.setCapOwner c v).txSt = s.txSt := rfl
@[simp] theorem State.setCapOwner_rxSt (s : State) (c : Chan) (v : RxOwner) : (s.setCapOwner c v).rxSt = s.rxSt := rfl
@[simp] theorem State.setCapOwner_txBuf (s : State) (c : Chan) (v : RxOwner) : (s.setCapOwner c v).txBuf = s.txBuf := rfl
@[simp] theorem State.setCapOwner_rxBuf (s : State) (c : Chan) (v : RxOwner) : (s.setCapOwner c v).rxBuf = s.rxBuf := rfl
@[simp] theorem State.setCapOwner_rxLen (s : State) (c : Chan) (v : RxOwner) : (s.setCapOwner c v).rxLen = s.rxLen := rfl
@[simp] theorem State.setCapOwner_txFlight (s : State) (c : Chan) (v : RxOwner) : (s.setCapOwner c v).txFlight = s.txFlight := rfl
@[simp] theorem State.setCapOwner_rxArmed (s : State) (c : Chan) (v : RxOwner) : (s.setCapOwner c v).rxArmed = s.rxArmed := rfl
@[simp] theorem State.setCapOwner_trace (s : State) (c : Chan) (v : RxOwner) : (s.setCapOwner c v).trace = s.trace := rfl
@[simp] theorem State.setCapOwner_inputs (s : State) (c : Chan) (v : RxOwner) : (s.setCapOwner c v).inputs = s.inputs := rfl
@[simp] theorem State.setCapOwner_responses (s : State) (c : Chan) (v : RxOwner) : (s.setCapOwner c v).responses = s.responses := rfl
@[simp] theorem State.setCapOwner_choices (s : State) (c : Chan) (v : RxOwner) : (s.setCapOwner c v).choices = s.choices := rfl
@[simp] theorem State.setCapOwner_motor (s : State) (c : Chan) (v : RxOwner) (k : MotIdx) : (s.setCapOwner c v).motor k = s.motor k := rfl
@[simp] theorem State.setCapOwner_owner (s : State) (c : Chan) (v : RxOwner) (d : Chan) : (s.setCapOwner c v).owner d = s.owner d := rfl
@[simp] theorem State.setCapOwner_txOwner (s : State) (c : Chan) (v : RxOwner) (d : Chan) : (s.setCapOwner c v).txOwner d = s.txOwner d := rfl
@[simp] theorem State.setCapOwner_rxOwner (s : State) (c : Chan) (v : RxOwner) (d : Chan) : (s.setCapOwner c v).rxOwner d = s.rxOwner d := rfl
@[simp] theorem State.setCapOwner_txDoneBit (s : State) (c : Chan) (v : RxOwner) (d : Chan) : (s.setCapOwner c v).txDoneBit d = s.txDoneBit d := rfl
@[simp] theorem State.setCapOwner_rxDoneBit (s : State) (c : Chan) (v : RxOwner) (d : Chan) : (s.setCapOwner c v).rxDoneBit d = s.rxDoneBit d := rfl
@[simp] theorem State.setCapOwner_capLen (s : State) (c : Chan) (v : RxOwner) (d : Chan) : (s.setCapOwner c v).capLen d = s.capLen d := rfl
@[simp] theorem State.setCapOwner_capOwner (s : State) (c : Chan) (v : RxOwner) (d : Chan) :
    (s.setCapOwner c v).capOwner d = if d = c then v else s.capOwner d := by
  by_cases h : d = c
  · subst h; simp [State.setCapOwner, State.capOwner]
  · have h' : c.val ≠ d.val := fun e => h (Fin.ext e.symm)
    simp [State.setCapOwner, State.capOwner, h, h']
@[simp] theorem State.setCapOwner_inFlight (s : State) (c : Chan) (v : RxOwner) (d : Chan) : (s.setCapOwner c v).inFlight d = s.inFlight d := rfl
@[simp] theorem State.setCapOwner_armed (s : State) (c : Chan) (v : RxOwner) (d : Chan) : (s.setCapOwner c v).armed d = s.armed d := rfl

/-! ### `setInFlight` -/

@[simp] theorem State.setInFlight_mot (s : State) (c : Chan) (v : Bool) : (s.setInFlight c v).mot = s.mot := rfl
@[simp] theorem State.setInFlight_pool (s : State) (c : Chan) (v : Bool) : (s.setInFlight c v).pool = s.pool := rfl
@[simp] theorem State.setInFlight_txMap (s : State) (c : Chan) (v : Bool) : (s.setInFlight c v).txMap = s.txMap := rfl
@[simp] theorem State.setInFlight_rxMap (s : State) (c : Chan) (v : Bool) : (s.setInFlight c v).rxMap = s.rxMap := rfl
@[simp] theorem State.setInFlight_txSt (s : State) (c : Chan) (v : Bool) : (s.setInFlight c v).txSt = s.txSt := rfl
@[simp] theorem State.setInFlight_rxSt (s : State) (c : Chan) (v : Bool) : (s.setInFlight c v).rxSt = s.rxSt := rfl
@[simp] theorem State.setInFlight_txBuf (s : State) (c : Chan) (v : Bool) : (s.setInFlight c v).txBuf = s.txBuf := rfl
@[simp] theorem State.setInFlight_rxBuf (s : State) (c : Chan) (v : Bool) : (s.setInFlight c v).rxBuf = s.rxBuf := rfl
@[simp] theorem State.setInFlight_rxLen (s : State) (c : Chan) (v : Bool) : (s.setInFlight c v).rxLen = s.rxLen := rfl
@[simp] theorem State.setInFlight_rxOwn (s : State) (c : Chan) (v : Bool) : (s.setInFlight c v).rxOwn = s.rxOwn := rfl
@[simp] theorem State.setInFlight_rxArmed (s : State) (c : Chan) (v : Bool) : (s.setInFlight c v).rxArmed = s.rxArmed := rfl
@[simp] theorem State.setInFlight_trace (s : State) (c : Chan) (v : Bool) : (s.setInFlight c v).trace = s.trace := rfl
@[simp] theorem State.setInFlight_inputs (s : State) (c : Chan) (v : Bool) : (s.setInFlight c v).inputs = s.inputs := rfl
@[simp] theorem State.setInFlight_responses (s : State) (c : Chan) (v : Bool) : (s.setInFlight c v).responses = s.responses := rfl
@[simp] theorem State.setInFlight_choices (s : State) (c : Chan) (v : Bool) : (s.setInFlight c v).choices = s.choices := rfl
@[simp] theorem State.setInFlight_motor (s : State) (c : Chan) (v : Bool) (k : MotIdx) : (s.setInFlight c v).motor k = s.motor k := rfl
@[simp] theorem State.setInFlight_owner (s : State) (c : Chan) (v : Bool) (d : Chan) : (s.setInFlight c v).owner d = s.owner d := rfl
@[simp] theorem State.setInFlight_txOwner (s : State) (c : Chan) (v : Bool) (d : Chan) : (s.setInFlight c v).txOwner d = s.txOwner d := rfl
@[simp] theorem State.setInFlight_rxOwner (s : State) (c : Chan) (v : Bool) (d : Chan) : (s.setInFlight c v).rxOwner d = s.rxOwner d := rfl
@[simp] theorem State.setInFlight_txDoneBit (s : State) (c : Chan) (v : Bool) (d : Chan) : (s.setInFlight c v).txDoneBit d = s.txDoneBit d := rfl
@[simp] theorem State.setInFlight_rxDoneBit (s : State) (c : Chan) (v : Bool) (d : Chan) : (s.setInFlight c v).rxDoneBit d = s.rxDoneBit d := rfl
@[simp] theorem State.setInFlight_capLen (s : State) (c : Chan) (v : Bool) (d : Chan) : (s.setInFlight c v).capLen d = s.capLen d := rfl
@[simp] theorem State.setInFlight_capOwner (s : State) (c : Chan) (v : Bool) (d : Chan) : (s.setInFlight c v).capOwner d = s.capOwner d := rfl
@[simp] theorem State.setInFlight_inFlight (s : State) (c : Chan) (v : Bool) (d : Chan) :
    (s.setInFlight c v).inFlight d = if d = c then v else s.inFlight d := by
  by_cases h : d = c
  · subst h; simp [State.setInFlight, State.inFlight]
  · have h' : c.val ≠ d.val := fun e => h (Fin.ext e.symm)
    simp [State.setInFlight, State.inFlight, h, h']
@[simp] theorem State.setInFlight_armed (s : State) (c : Chan) (v : Bool) (d : Chan) : (s.setInFlight c v).armed d = s.armed d := rfl

/-! ### `setArmed` -/

@[simp] theorem State.setArmed_mot (s : State) (c : Chan) (v : Nat) : (s.setArmed c v).mot = s.mot := rfl
@[simp] theorem State.setArmed_pool (s : State) (c : Chan) (v : Nat) : (s.setArmed c v).pool = s.pool := rfl
@[simp] theorem State.setArmed_txMap (s : State) (c : Chan) (v : Nat) : (s.setArmed c v).txMap = s.txMap := rfl
@[simp] theorem State.setArmed_rxMap (s : State) (c : Chan) (v : Nat) : (s.setArmed c v).rxMap = s.rxMap := rfl
@[simp] theorem State.setArmed_txSt (s : State) (c : Chan) (v : Nat) : (s.setArmed c v).txSt = s.txSt := rfl
@[simp] theorem State.setArmed_rxSt (s : State) (c : Chan) (v : Nat) : (s.setArmed c v).rxSt = s.rxSt := rfl
@[simp] theorem State.setArmed_txBuf (s : State) (c : Chan) (v : Nat) : (s.setArmed c v).txBuf = s.txBuf := rfl
@[simp] theorem State.setArmed_rxBuf (s : State) (c : Chan) (v : Nat) : (s.setArmed c v).rxBuf = s.rxBuf := rfl
@[simp] theorem State.setArmed_rxLen (s : State) (c : Chan) (v : Nat) : (s.setArmed c v).rxLen = s.rxLen := rfl
@[simp] theorem State.setArmed_rxOwn (s : State) (c : Chan) (v : Nat) : (s.setArmed c v).rxOwn = s.rxOwn := rfl
@[simp] theorem State.setArmed_txFlight (s : State) (c : Chan) (v : Nat) : (s.setArmed c v).txFlight = s.txFlight := rfl
@[simp] theorem State.setArmed_trace (s : State) (c : Chan) (v : Nat) : (s.setArmed c v).trace = s.trace := rfl
@[simp] theorem State.setArmed_inputs (s : State) (c : Chan) (v : Nat) : (s.setArmed c v).inputs = s.inputs := rfl
@[simp] theorem State.setArmed_responses (s : State) (c : Chan) (v : Nat) : (s.setArmed c v).responses = s.responses := rfl
@[simp] theorem State.setArmed_choices (s : State) (c : Chan) (v : Nat) : (s.setArmed c v).choices = s.choices := rfl
@[simp] theorem State.setArmed_motor (s : State) (c : Chan) (v : Nat) (k : MotIdx) : (s.setArmed c v).motor k = s.motor k := rfl
@[simp] theorem State.setArmed_owner (s : State) (c : Chan) (v : Nat) (d : Chan) : (s.setArmed c v).owner d = s.owner d := rfl
@[simp] theorem State.setArmed_txOwner (s : State) (c : Chan) (v : Nat) (d : Chan) : (s.setArmed c v).txOwner d = s.txOwner d := rfl
@[simp] theorem State.setArmed_rxOwner (s : State) (c : Chan) (v : Nat) (d : Chan) : (s.setArmed c v).rxOwner d = s.rxOwner d := rfl
@[simp] theorem State.setArmed_txDoneBit (s : State) (c : Chan) (v : Nat) (d : Chan) : (s.setArmed c v).txDoneBit d = s.txDoneBit d := rfl
@[simp] theorem State.setArmed_rxDoneBit (s : State) (c : Chan) (v : Nat) (d : Chan) : (s.setArmed c v).rxDoneBit d = s.rxDoneBit d := rfl
@[simp] theorem State.setArmed_capLen (s : State) (c : Chan) (v : Nat) (d : Chan) : (s.setArmed c v).capLen d = s.capLen d := rfl
@[simp] theorem State.setArmed_capOwner (s : State) (c : Chan) (v : Nat) (d : Chan) : (s.setArmed c v).capOwner d = s.capOwner d := rfl
@[simp] theorem State.setArmed_inFlight (s : State) (c : Chan) (v : Nat) (d : Chan) : (s.setArmed c v).inFlight d = s.inFlight d := rfl
@[simp] theorem State.setArmed_armed (s : State) (c : Chan) (v : Nat) (d : Chan) :
    (s.setArmed c v).armed d = if d = c then v else s.armed d := by
  by_cases h : d = c
  · subst h; simp [State.setArmed, State.armed]
  · have h' : c.val ≠ d.val := fun e => h (Fin.ext e.symm)
    simp [State.setArmed, State.armed, h, h']

/-! ### `emit` -/

@[simp] theorem State.emit_mot (s : State) (a : Action) : (s.emit a).mot = s.mot := rfl
@[simp] theorem State.emit_pool (s : State) (a : Action) : (s.emit a).pool = s.pool := rfl
@[simp] theorem State.emit_txMap (s : State) (a : Action) : (s.emit a).txMap = s.txMap := rfl
@[simp] theorem State.emit_rxMap (s : State) (a : Action) : (s.emit a).rxMap = s.rxMap := rfl
@[simp] theorem State.emit_txSt (s : State) (a : Action) : (s.emit a).txSt = s.txSt := rfl
@[simp] theorem State.emit_rxSt (s : State) (a : Action) : (s.emit a).rxSt = s.rxSt := rfl
@[simp] theorem State.emit_txBuf (s : State) (a : Action) : (s.emit a).txBuf = s.txBuf := rfl
@[simp] theorem State.emit_rxBuf (s : State) (a : Action) : (s.emit a).rxBuf = s.rxBuf := rfl
@[simp] theorem State.emit_rxLen (s : State) (a : Action) : (s.emit a).rxLen = s.rxLen := rfl
@[simp] theorem State.emit_rxOwn (s : State) (a : Action) : (s.emit a).rxOwn = s.rxOwn := rfl
@[simp] theorem State.emit_txFlight (s : State) (a : Action) : (s.emit a).txFlight = s.txFlight := rfl
@[simp] theorem State.emit_rxArmed (s : State) (a : Action) : (s.emit a).rxArmed = s.rxArmed := rfl
@[simp] theorem State.emit_trace (s : State) (a : Action) : (s.emit a).trace = s.trace ++ [a] := rfl
@[simp] theorem State.emit_inputs (s : State) (a : Action) : (s.emit a).inputs = s.inputs := rfl
@[simp] theorem State.emit_responses (s : State) (a : Action) : (s.emit a).responses = s.responses := rfl
@[simp] theorem State.emit_choices (s : State) (a : Action) : (s.emit a).choices = s.choices := rfl
@[simp] theorem State.emit_motor (s : State) (a : Action) (k : MotIdx) : (s.emit a).motor k = s.motor k := rfl
@[simp] theorem State.emit_owner (s : State) (a : Action) (d : Chan) : (s.emit a).owner d = s.owner d := rfl
@[simp] theorem State.emit_txOwner (s : State) (a : Action) (d : Chan) : (s.emit a).txOwner d = s.txOwner d := rfl
@[simp] theorem State.emit_rxOwner (s : State) (a : Action) (d : Chan) : (s.emit a).rxOwner d = s.rxOwner d := rfl
@[simp] theorem State.emit_txDoneBit (s : State) (a : Action) (d : Chan) : (s.emit a).txDoneBit d = s.txDoneBit d := rfl
@[simp] theorem State.emit_rxDoneBit (s : State) (a : Action) (d : Chan) : (s.emit a).rxDoneBit d = s.rxDoneBit d := rfl
@[simp] theorem State.emit_capLen (s : State) (a : Action) (d : Chan) : (s.emit a).capLen d = s.capLen d := rfl
@[simp] theorem State.emit_capOwner (s : State) (a : Action) (d : Chan) : (s.emit a).capOwner d = s.capOwner d := rfl
@[simp] theorem State.emit_inFlight (s : State) (a : Action) (d : Chan) : (s.emit a).inFlight d = s.inFlight d := rfl
@[simp] theorem State.emit_armed (s : State) (a : Action) (d : Chan) : (s.emit a).armed d = s.armed d := rfl

/-! ### `respond` -/

@[simp] theorem State.respond_mot (s : State) (w : Word) : (s.respond w).mot = s.mot := rfl
@[simp] theorem State.respond_pool (s : State) (w : Word) : (s.respond w).pool = s.pool := rfl
@[simp] theorem State.respond_txMap (s : State) (w : Word) : (s.respond w).txMap = s.txMap := rfl
@[simp] theorem State.respond_rxMap (s : State) (w : Word) : (s.respond w).rxMap = s.rxMap := rfl
@[simp] theorem State.respond_txSt (s : State) (w : Word) : (s.respond w).txSt = s.txSt := rfl
@[simp] theorem State.respond_rxSt (s : State) (w : Word) : (s.respond w).rxSt = s.rxSt := rfl
@[simp] theorem State.respond_txBuf (s : State) (w : Word) : (s.respond w).txBuf = s.txBuf := rfl
@[simp] theorem State.respond_rxBuf (s : State) (w : Word) : (s.respond w).rxBuf = s.rxBuf := rfl
@[simp] theorem State.respond_rxLen (s : State) (w : Word) : (s.respond w).rxLen = s.rxLen := rfl
@[simp] theorem State.respond_rxOwn (s : State) (w : Word) : (s.respond w).rxOwn = s.rxOwn := rfl
@[simp] theorem State.respond_txFlight (s : State) (w : Word) : (s.respond w).txFlight = s.txFlight := rfl
@[simp] theorem State.respond_rxArmed (s : State) (w : Word) : (s.respond w).rxArmed = s.rxArmed := rfl
@[simp] theorem State.respond_trace (s : State) (w : Word) : (s.respond w).trace = s.trace := rfl
@[simp] theorem State.respond_inputs (s : State) (w : Word) : (s.respond w).inputs = s.inputs := rfl
@[simp] theorem State.respond_responses (s : State) (w : Word) : (s.respond w).responses = s.responses ++ [w] := rfl
@[simp] theorem State.respond_choices (s : State) (w : Word) : (s.respond w).choices = s.choices := rfl
@[simp] theorem State.respond_motor (s : State) (w : Word) (k : MotIdx) : (s.respond w).motor k = s.motor k := rfl
@[simp] theorem State.respond_owner (s : State) (w : Word) (d : Chan) : (s.respond w).owner d = s.owner d := rfl
@[simp] theorem State.respond_txOwner (s : State) (w : Word) (d : Chan) : (s.respond w).txOwner d = s.txOwner d := rfl
@[simp] theorem State.respond_rxOwner (s : State) (w : Word) (d : Chan) : (s.respond w).rxOwner d = s.rxOwner d := rfl
@[simp] theorem State.respond_txDoneBit (s : State) (w : Word) (d : Chan) : (s.respond w).txDoneBit d = s.txDoneBit d := rfl
@[simp] theorem State.respond_rxDoneBit (s : State) (w : Word) (d : Chan) : (s.respond w).rxDoneBit d = s.rxDoneBit d := rfl
@[simp] theorem State.respond_capLen (s : State) (w : Word) (d : Chan) : (s.respond w).capLen d = s.capLen d := rfl
@[simp] theorem State.respond_capOwner (s : State) (w : Word) (d : Chan) : (s.respond w).capOwner d = s.capOwner d := rfl
@[simp] theorem State.respond_inFlight (s : State) (w : Word) (d : Chan) : (s.respond w).inFlight d = s.inFlight d := rfl
@[simp] theorem State.respond_armed (s : State) (w : Word) (d : Chan) : (s.respond w).armed d = s.armed d := rfl

/-! ### `setInputs` -/

@[simp] theorem State.setInputs_mot (s : State) (l : List Input) : (s.setInputs l).mot = s.mot := rfl
@[simp] theorem State.setInputs_pool (s : State) (l : List Input) : (s.setInputs l).pool = s.pool := rfl
@[simp] theorem State.setInputs_txMap (s : State) (l : List Input) : (s.setInputs l).txMap = s.txMap := rfl
@[simp] theorem State.setInputs_rxMap (s : State) (l : List Input) : (s.setInputs l).rxMap = s.rxMap := rfl
@[simp] theorem State.setInputs_txSt (s : State) (l : List Input) : (s.setInputs l).txSt = s.txSt := rfl
@[simp] theorem State.setInputs_rxSt (s : State) (l : List Input) : (s.setInputs l).rxSt = s.rxSt := rfl
@[simp] theorem State.setInputs_txBuf (s : State) (l : List Input) : (s.setInputs l).txBuf = s.txBuf := rfl
@[simp] theorem State.setInputs_rxBuf (s : State) (l : List Input) : (s.setInputs l).rxBuf = s.rxBuf := rfl
@[simp] theorem State.setInputs_rxLen (s : State) (l : List Input) : (s.setInputs l).rxLen = s.rxLen := rfl
@[simp] theorem State.setInputs_rxOwn (s : State) (l : List Input) : (s.setInputs l).rxOwn = s.rxOwn := rfl
@[simp] theorem State.setInputs_txFlight (s : State) (l : List Input) : (s.setInputs l).txFlight = s.txFlight := rfl
@[simp] theorem State.setInputs_rxArmed (s : State) (l : List Input) : (s.setInputs l).rxArmed = s.rxArmed := rfl
@[simp] theorem State.setInputs_trace (s : State) (l : List Input) : (s.setInputs l).trace = s.trace := rfl
@[simp] theorem State.setInputs_inputs (s : State) (l : List Input) : (s.setInputs l).inputs = l := rfl
@[simp] theorem State.setInputs_responses (s : State) (l : List Input) : (s.setInputs l).responses = s.responses := rfl
@[simp] theorem State.setInputs_choices (s : State) (l : List Input) : (s.setInputs l).choices = s.choices := rfl
@[simp] theorem State.setInputs_motor (s : State) (l : List Input) (k : MotIdx) : (s.setInputs l).motor k = s.motor k := rfl
@[simp] theorem State.setInputs_owner (s : State) (l : List Input) (d : Chan) : (s.setInputs l).owner d = s.owner d := rfl
@[simp] theorem State.setInputs_txOwner (s : State) (l : List Input) (d : Chan) : (s.setInputs l).txOwner d = s.txOwner d := rfl
@[simp] theorem State.setInputs_rxOwner (s : State) (l : List Input) (d : Chan) : (s.setInputs l).rxOwner d = s.rxOwner d := rfl
@[simp] theorem State.setInputs_txDoneBit (s : State) (l : List Input) (d : Chan) : (s.setInputs l).txDoneBit d = s.txDoneBit d := rfl
@[simp] theorem State.setInputs_rxDoneBit (s : State) (l : List Input) (d : Chan) : (s.setInputs l).rxDoneBit d = s.rxDoneBit d := rfl
@[simp] theorem State.setInputs_capLen (s : State) (l : List Input) (d : Chan) : (s.setInputs l).capLen d = s.capLen d := rfl
@[simp] theorem State.setInputs_capOwner (s : State) (l : List Input) (d : Chan) : (s.setInputs l).capOwner d = s.capOwner d := rfl
@[simp] theorem State.setInputs_inFlight (s : State) (l : List Input) (d : Chan) : (s.setInputs l).inFlight d = s.inFlight d := rfl
@[simp] theorem State.setInputs_armed (s : State) (l : List Input) (d : Chan) : (s.setInputs l).armed d = s.armed d := rfl

/-! ### `storeTx` -/

@[simp] theorem State.storeTx_mot (s : State) (a : Nat) (l : List SlotWord) : (s.storeTx a l).mot = s.mot := rfl
@[simp] theorem State.storeTx_pool (s : State) (a : Nat) (l : List SlotWord) : (s.storeTx a l).pool = s.pool := rfl
@[simp] theorem State.storeTx_txMap (s : State) (a : Nat) (l : List SlotWord) : (s.storeTx a l).txMap = s.txMap := rfl
@[simp] theorem State.storeTx_rxMap (s : State) (a : Nat) (l : List SlotWord) : (s.storeTx a l).rxMap = s.rxMap := rfl
@[simp] theorem State.storeTx_txSt (s : State) (a : Nat) (l : List SlotWord) : (s.storeTx a l).txSt = s.txSt := rfl
@[simp] theorem State.storeTx_rxSt (s : State) (a : Nat) (l : List SlotWord) : (s.storeTx a l).rxSt = s.rxSt := rfl
@[simp] theorem State.storeTx_txBuf (s : State) (a : Nat) (l : List SlotWord) : (s.storeTx a l).txBuf = s.txBuf.writeFrom a l := rfl
@[simp] theorem State.storeTx_rxBuf (s : State) (a : Nat) (l : List SlotWord) : (s.storeTx a l).rxBuf = s.rxBuf := rfl
@[simp] theorem State.storeTx_rxLen (s : State) (a : Nat) (l : List SlotWord) : (s.storeTx a l).rxLen = s.rxLen := rfl
@[simp] theorem State.storeTx_rxOwn (s : State) (a : Nat) (l : List SlotWord) : (s.storeTx a l).rxOwn = s.rxOwn := rfl
@[simp] theorem State.storeTx_txFlight (s : State) (a : Nat) (l : List SlotWord) : (s.storeTx a l).txFlight = s.txFlight := rfl
@[simp] theorem State.storeTx_rxArmed (s : State) (a : Nat) (l : List SlotWord) : (s.storeTx a l).rxArmed = s.rxArmed := rfl
@[simp] theorem State.storeTx_trace (s : State) (a : Nat) (l : List SlotWord) : (s.storeTx a l).trace = s.trace := rfl
@[simp] theorem State.storeTx_inputs (s : State) (a : Nat) (l : List SlotWord) : (s.storeTx a l).inputs = s.inputs := rfl
@[simp] theorem State.storeTx_responses (s : State) (a : Nat) (l : List SlotWord) : (s.storeTx a l).responses = s.responses := rfl
@[simp] theorem State.storeTx_choices (s : State) (a : Nat) (l : List SlotWord) : (s.storeTx a l).choices = s.choices := rfl
@[simp] theorem State.storeTx_motor (s : State) (a : Nat) (l : List SlotWord) (k : MotIdx) : (s.storeTx a l).motor k = s.motor k := rfl
@[simp] theorem State.storeTx_owner (s : State) (a : Nat) (l : List SlotWord) (d : Chan) : (s.storeTx a l).owner d = s.owner d := rfl
@[simp] theorem State.storeTx_txOwner (s : State) (a : Nat) (l : List SlotWord) (d : Chan) : (s.storeTx a l).txOwner d = s.txOwner d := rfl
@[simp] theorem State.storeTx_rxOwner (s : State) (a : Nat) (l : List SlotWord) (d : Chan) : (s.storeTx a l).rxOwner d = s.rxOwner d := rfl
@[simp] theorem State.storeTx_txDoneBit (s : State) (a : Nat) (l : List SlotWord) (d : Chan) : (s.storeTx a l).txDoneBit d = s.txDoneBit d := rfl
@[simp] theorem State.storeTx_rxDoneBit (s : State) (a : Nat) (l : List SlotWord) (d : Chan) : (s.storeTx a l).rxDoneBit d = s.rxDoneBit d := rfl
@[simp] theorem State.storeTx_capLen (s : State) (a : Nat) (l : List SlotWord) (d : Chan) : (s.storeTx a l).capLen d = s.capLen d := rfl
@[simp] theorem State.storeTx_capOwner (s : State) (a : Nat) (l : List SlotWord) (d : Chan) : (s.storeTx a l).capOwner d = s.capOwner d := rfl
@[simp] theorem State.storeTx_inFlight (s : State) (a : Nat) (l : List SlotWord) (d : Chan) : (s.storeTx a l).inFlight d = s.inFlight d := rfl
@[simp] theorem State.storeTx_armed (s : State) (a : Nat) (l : List SlotWord) (d : Chan) : (s.storeTx a l).armed d = s.armed d := rfl

/-! ### `storeRx` -/

@[simp] theorem State.storeRx_mot (s : State) (a : Nat) (l : List CapPair) : (s.storeRx a l).mot = s.mot := rfl
@[simp] theorem State.storeRx_pool (s : State) (a : Nat) (l : List CapPair) : (s.storeRx a l).pool = s.pool := rfl
@[simp] theorem State.storeRx_txMap (s : State) (a : Nat) (l : List CapPair) : (s.storeRx a l).txMap = s.txMap := rfl
@[simp] theorem State.storeRx_rxMap (s : State) (a : Nat) (l : List CapPair) : (s.storeRx a l).rxMap = s.rxMap := rfl
@[simp] theorem State.storeRx_txSt (s : State) (a : Nat) (l : List CapPair) : (s.storeRx a l).txSt = s.txSt := rfl
@[simp] theorem State.storeRx_rxSt (s : State) (a : Nat) (l : List CapPair) : (s.storeRx a l).rxSt = s.rxSt := rfl
@[simp] theorem State.storeRx_txBuf (s : State) (a : Nat) (l : List CapPair) : (s.storeRx a l).txBuf = s.txBuf := rfl
@[simp] theorem State.storeRx_rxBuf (s : State) (a : Nat) (l : List CapPair) : (s.storeRx a l).rxBuf = s.rxBuf.writeFrom a l := rfl
@[simp] theorem State.storeRx_rxLen (s : State) (a : Nat) (l : List CapPair) : (s.storeRx a l).rxLen = s.rxLen := rfl
@[simp] theorem State.storeRx_rxOwn (s : State) (a : Nat) (l : List CapPair) : (s.storeRx a l).rxOwn = s.rxOwn := rfl
@[simp] theorem State.storeRx_txFlight (s : State) (a : Nat) (l : List CapPair) : (s.storeRx a l).txFlight = s.txFlight := rfl
@[simp] theorem State.storeRx_rxArmed (s : State) (a : Nat) (l : List CapPair) : (s.storeRx a l).rxArmed = s.rxArmed := rfl
@[simp] theorem State.storeRx_trace (s : State) (a : Nat) (l : List CapPair) : (s.storeRx a l).trace = s.trace := rfl
@[simp] theorem State.storeRx_inputs (s : State) (a : Nat) (l : List CapPair) : (s.storeRx a l).inputs = s.inputs := rfl
@[simp] theorem State.storeRx_responses (s : State) (a : Nat) (l : List CapPair) : (s.storeRx a l).responses = s.responses := rfl
@[simp] theorem State.storeRx_choices (s : State) (a : Nat) (l : List CapPair) : (s.storeRx a l).choices = s.choices := rfl
@[simp] theorem State.storeRx_motor (s : State) (a : Nat) (l : List CapPair) (k : MotIdx) : (s.storeRx a l).motor k = s.motor k := rfl
@[simp] theorem State.storeRx_owner (s : State) (a : Nat) (l : List CapPair) (d : Chan) : (s.storeRx a l).owner d = s.owner d := rfl
@[simp] theorem State.storeRx_txOwner (s : State) (a : Nat) (l : List CapPair) (d : Chan) : (s.storeRx a l).txOwner d = s.txOwner d := rfl
@[simp] theorem State.storeRx_rxOwner (s : State) (a : Nat) (l : List CapPair) (d : Chan) : (s.storeRx a l).rxOwner d = s.rxOwner d := rfl
@[simp] theorem State.storeRx_txDoneBit (s : State) (a : Nat) (l : List CapPair) (d : Chan) : (s.storeRx a l).txDoneBit d = s.txDoneBit d := rfl
@[simp] theorem State.storeRx_rxDoneBit (s : State) (a : Nat) (l : List CapPair) (d : Chan) : (s.storeRx a l).rxDoneBit d = s.rxDoneBit d := rfl
@[simp] theorem State.storeRx_capLen (s : State) (a : Nat) (l : List CapPair) (d : Chan) : (s.storeRx a l).capLen d = s.capLen d := rfl
@[simp] theorem State.storeRx_capOwner (s : State) (a : Nat) (l : List CapPair) (d : Chan) : (s.storeRx a l).capOwner d = s.capOwner d := rfl
@[simp] theorem State.storeRx_inFlight (s : State) (a : Nat) (l : List CapPair) (d : Chan) : (s.storeRx a l).inFlight d = s.inFlight d := rfl
@[simp] theorem State.storeRx_armed (s : State) (a : Nat) (l : List CapPair) (d : Chan) : (s.storeRx a l).armed d = s.armed d := rfl

/-! ### `nextChoice` -/

@[simp] theorem State.nextChoice_mot (s : State) : (s.nextChoice).mot = s.mot := rfl
@[simp] theorem State.nextChoice_pool (s : State) : (s.nextChoice).pool = s.pool := rfl
@[simp] theorem State.nextChoice_txMap (s : State) : (s.nextChoice).txMap = s.txMap := rfl
@[simp] theorem State.nextChoice_rxMap (s : State) : (s.nextChoice).rxMap = s.rxMap := rfl
@[simp] theorem State.nextChoice_txSt (s : State) : (s.nextChoice).txSt = s.txSt := rfl
@[simp] theorem State.nextChoice_rxSt (s : State) : (s.nextChoice).rxSt = s.rxSt := rfl
@[simp] theorem State.nextChoice_txBuf (s : State) : (s.nextChoice).txBuf = s.txBuf := rfl
@[simp] theorem State.nextChoice_rxBuf (s : State) : (s.nextChoice).rxBuf = s.rxBuf := rfl
@[simp] theorem State.nextChoice_rxLen (s : State) : (s.nextChoice).rxLen = s.rxLen := rfl
@[simp] theorem State.nextChoice_rxOwn (s : State) : (s.nextChoice).rxOwn = s.rxOwn := rfl
@[simp] theorem State.nextChoice_txFlight (s : State) : (s.nextChoice).txFlight = s.txFlight := rfl
@[simp] theorem State.nextChoice_rxArmed (s : State) : (s.nextChoice).rxArmed = s.rxArmed := rfl
@[simp] theorem State.nextChoice_trace (s : State) : (s.nextChoice).trace = s.trace := rfl
@[simp] theorem State.nextChoice_inputs (s : State) : (s.nextChoice).inputs = s.inputs := rfl
@[simp] theorem State.nextChoice_responses (s : State) : (s.nextChoice).responses = s.responses := rfl
@[simp] theorem State.nextChoice_choices (s : State) : (s.nextChoice).choices = s.choices + 1 := rfl
@[simp] theorem State.nextChoice_motor (s : State) (k : MotIdx) : (s.nextChoice).motor k = s.motor k := rfl
@[simp] theorem State.nextChoice_owner (s : State) (d : Chan) : (s.nextChoice).owner d = s.owner d := rfl
@[simp] theorem State.nextChoice_txOwner (s : State) (d : Chan) : (s.nextChoice).txOwner d = s.txOwner d := rfl
@[simp] theorem State.nextChoice_rxOwner (s : State) (d : Chan) : (s.nextChoice).rxOwner d = s.rxOwner d := rfl
@[simp] theorem State.nextChoice_txDoneBit (s : State) (d : Chan) : (s.nextChoice).txDoneBit d = s.txDoneBit d := rfl
@[simp] theorem State.nextChoice_rxDoneBit (s : State) (d : Chan) : (s.nextChoice).rxDoneBit d = s.rxDoneBit d := rfl
@[simp] theorem State.nextChoice_capLen (s : State) (d : Chan) : (s.nextChoice).capLen d = s.capLen d := rfl
@[simp] theorem State.nextChoice_capOwner (s : State) (d : Chan) : (s.nextChoice).capOwner d = s.capOwner d := rfl
@[simp] theorem State.nextChoice_inFlight (s : State) (d : Chan) : (s.nextChoice).inFlight d = s.inFlight d := rfl
@[simp] theorem State.nextChoice_armed (s : State) (d : Chan) : (s.nextChoice).armed d = s.armed d := rfl

end Sys2Proof.Machine
end

