-- ==== Sys2Proof/Laws/Memory.lean ====
section
/-!
SUPPORT. The laws of a buffer space: what is read after a write, and that every write keeps the canonical form.
-/

namespace Sys2Proof.Machine

variable {α : Type}

@[simp] theorem Memory.read_nil (a : Nat) : Memory.read ([] : Memory α) a = none := rfl

/-- A read after a write gives the value written at its index and the old value elsewhere. -/
theorem Memory.read_write (mem : Memory α) (a b : Nat) (x : α) :
    (mem.write a x).read b = if b = a then some x else mem.read b := by
  induction mem with
  | nil => simp [Memory.write, Memory.read, eq_comm]
  | cons cell rest ih =>
    obtain ⟨k, v⟩ := cell
    simp only [Memory.write]
    split
    · simp [Memory.read, eq_comm (a := a)]
    · split
      · next hk =>
        subst hk
        by_cases h : b = k
        · simp [Memory.read, h]
        · simp [Memory.read, h, Ne.symm h]
      · next hk =>
        by_cases h : k = b
        · subst h; simp [Memory.read, hk]
        · simp [Memory.read, h, ih]

theorem Memory.read_write_same (mem : Memory α) (a : Nat) (x : α) : (mem.write a x).read a = some x := by
  simp [Memory.read_write]

theorem Memory.read_write_other (mem : Memory α) {a b : Nat} (x : α) (h : b ≠ a) :
    (mem.write a x).read b = mem.read b := by
  simp [Memory.read_write, h]

/-- The indices after a write are the old ones and the one written. -/
theorem Memory.mem_write (mem : Memory α) (a : Nat) (x : α) (cell : Nat × α) (h : cell ∈ mem.write a x) :
    cell = (a, x) ∨ cell ∈ mem := by
  induction mem with
  | nil => simpa [Memory.write] using h
  | cons c rest ih =>
    obtain ⟨k, v⟩ := c
    simp only [Memory.write] at h
    split at h
    · simpa using h
    · split at h
      · rcases List.mem_cons.1 h with h | h
        · exact .inl h
        · exact .inr (List.mem_cons_of_mem _ h)
      · rcases List.mem_cons.1 h with h | h
        · exact .inr (h ▸ List.mem_cons_self)
        · exact (ih h).imp id (List.mem_cons_of_mem _)

/-- A write in range keeps the canonical form. -/
theorem Memory.wf_write {size : Nat} {mem : Memory α} (h : mem.wf size) {a : Nat} (ha : a < size) (x : α) :
    (mem.write a x).wf size := by
  constructor
  · have hs := h.1
    clear h
    induction mem with
    | nil => simp [Memory.write]
    | cons c rest ih =>
      obtain ⟨k, v⟩ := c
      simp only [List.map_cons, List.pairwise_cons] at hs
      simp only [Memory.write]
      split
      · next hlt =>
        simp only [List.map_cons, List.pairwise_cons, List.mem_cons, forall_eq_or_imp]
        exact ⟨⟨hlt, fun b hb => hlt.trans (hs.1 b hb)⟩, hs⟩
      · split
        · next hlt hk =>
          subst hk
          simpa using hs
        · next hlt hk =>
          simp only [List.map_cons, List.pairwise_cons]
          refine ⟨fun b hb => ?_, ih hs.2⟩
          obtain ⟨cell, hc, rfl⟩ := List.mem_map.1 hb
          rcases Memory.mem_write rest a x cell hc with rfl | hr
          · omega
          · exact hs.1 _ (List.mem_map.2 ⟨cell, hr, rfl⟩)
  · intro cell hc
    rcases Memory.mem_write mem a x cell hc with rfl | hr
    · exact ha
    · exact h.2 cell hr

/-- A read after writing a list from `a` on. -/
theorem Memory.read_writeFrom (l : List α) (mem : Memory α) (a b : Nat) :
    (mem.writeFrom a l).read b =
      if a ≤ b ∧ b < a + l.length then l[b - a]? else mem.read b := by
  induction l generalizing mem a with
  | nil =>
    have : ¬ (a ≤ b ∧ b < a) := by omega
    simp [Memory.writeFrom, this]
  | cons x xs ih =>
    simp only [Memory.writeFrom, ih, Memory.read_write, List.length_cons]
    by_cases h1 : b = a
    · subst h1
      rw [if_neg (by omega), if_pos rfl, if_pos (by omega)]
      simp
    · by_cases h2 : a + 1 ≤ b ∧ b < a + 1 + xs.length
      · have h4 : b - a = (b - (a + 1)) + 1 := by omega
        rw [if_pos h2, if_pos (by omega), h4]
        simp
      · rw [if_neg h2, if_neg h1, if_neg (by omega)]

/-- Writing a list that fits keeps the canonical form. -/
theorem Memory.wf_writeFrom {size : Nat} (l : List α) {mem : Memory α} (h : mem.wf size) {a : Nat}
    (ha : a + l.length ≤ size) : (mem.writeFrom a l).wf size := by
  induction l generalizing mem a with
  | nil => exact h
  | cons x xs ih =>
    simp only [List.length_cons] at ha
    exact ih (Memory.wf_write h (by omega) x) (by omega)

/-- Two slots have one index only when they are one slot. -/
theorem txIndex_inj {c d : Chan} {i j : Nat} (hi : i < nSlots) (hj : j < nSlots) :
    txIndex c i = txIndex d j ↔ c = d ∧ i = j := by
  simp only [txIndex, nSlots, Fin.ext_iff] at *
  omega

/-- Two pairs have one index only when they are one pair. -/
theorem rxIndex_inj {c d : Chan} {i j : Nat} (hi : i < capMax) (hj : j < capMax) :
    rxIndex c i = rxIndex d j ↔ c = d ∧ i = j := by
  simp only [rxIndex, capMax, Fin.ext_iff] at *
  omega

/-- The buffers after reset have their canonical form. -/
theorem State.reset_wf (size size' : Nat) : State.reset.txBuf.wf size ∧ State.reset.rxBuf.wf size' := by
  simp [State.reset, Memory.wf]

/-- Storing a train of at most sixteen slots on a channel of a pool of `n` keeps the canonical form. -/
theorem State.storeTx_wf {n : Nat} {s : State} (h : s.txBuf.wf (nSlots * n)) {c : Chan} (hc : c.val < n) {l : List SlotWord}
    (hl : l.length ≤ nSlots) : (s.storeTx (txIndex c 0) l).txBuf.wf (nSlots * n) := by
  rw [State.storeTx_txBuf]
  apply Memory.wf_writeFrom _ h
  simp only [txIndex, nSlots] at *
  omega

/-- Storing a capture of at most 21 pairs on a channel of a pool of `n` keeps the canonical form. -/
theorem State.storeRx_wf {n : Nat} {s : State} (h : s.rxBuf.wf (capMax * n)) {c : Chan} (hc : c.val < n) {l : List CapPair}
    (hl : l.length ≤ capMax) : (s.storeRx (rxIndex c 0) l).rxBuf.wf (capMax * n) := by
  rw [State.storeRx_rxBuf]
  apply Memory.wf_writeFrom _ h
  simp only [rxIndex, capMax] at *
  omega

/-- Slot `i` of a channel after a train was stored at another or the same channel. -/
theorem State.storeTx_txSlot (s : State) (c d : Chan) (l : List SlotWord) (hl : l.length ≤ nSlots) (i : Fin nSlots) :
    (s.storeTx (txIndex c 0) l).txSlot d i = if d = c ∧ i.val < l.length then l[i.val]? else s.txSlot d i := by
  have hi := i.isLt
  simp only [State.txSlot, State.storeTx_txBuf, Memory.read_writeFrom]
  by_cases h : d = c
  · subst h
    have e : txIndex d i.val - txIndex d 0 = i.val := by simp [txIndex]
    by_cases hlt : i.val < l.length
    · have : txIndex d 0 ≤ txIndex d i.val ∧ txIndex d i.val < txIndex d 0 + l.length := by
        simp only [txIndex]; omega
      simp [this, e, hlt]
    · have : ¬ (txIndex d 0 ≤ txIndex d i.val ∧ txIndex d i.val < txIndex d 0 + l.length) := by
        simp only [txIndex]; omega
      simp [this, hlt]
  · have hv : d.val ≠ c.val := fun e => h (Fin.ext e)
    have : ¬ (txIndex c 0 ≤ txIndex d i.val ∧ txIndex d i.val < txIndex c 0 + l.length) := by
      simp only [txIndex, nSlots] at *; omega
    simp [this, h]

/-- Pair `i` of a channel after a capture was stored at another or the same channel. -/
theorem State.storeRx_read (s : State) (c d : Chan) (l : List CapPair) (hl : l.length ≤ capMax) (i : Nat) (hi : i < capMax) :
    (s.storeRx (rxIndex c 0) l).rxBuf.read (rxIndex d i) =
      if d = c ∧ i < l.length then l[i]? else s.rxBuf.read (rxIndex d i) := by
  simp only [State.storeRx_rxBuf, Memory.read_writeFrom]
  by_cases h : d = c
  · subst h
    have e : rxIndex d i - rxIndex d 0 = i := by simp [rxIndex]
    by_cases hlt : i < l.length
    · have : rxIndex d 0 ≤ rxIndex d i ∧ rxIndex d i < rxIndex d 0 + l.length := by
        simp only [rxIndex]; omega
      simp [this, e, hlt]
    · have : ¬ (rxIndex d 0 ≤ rxIndex d i ∧ rxIndex d i < rxIndex d 0 + l.length) := by
        simp only [rxIndex]; omega
      simp [this, hlt]
  · have hv : d.val ≠ c.val := fun e => h (Fin.ext e)
    have : ¬ (rxIndex c 0 ≤ rxIndex d i ∧ rxIndex d i < rxIndex c 0 + l.length) := by
      simp only [rxIndex, capMax] at *; omega
    simp [this, h]

end Sys2Proof.Machine
end

