-- ==== Sys2Proof/Laws/Ops.lean ====
section
/-!
SUPPORT. For each shared operation, once, everything it can do: "if it answers `next t`, then …". Later proofs cite these and do not
unfold the operations.
-/

namespace Sys2Proof.Machine

/-! ### Results -/

@[simp] theorem Result.andThen_next (s : State) (f : State → Result) :
    Result.andThen (.next s) f = f s := rfl

/-- A result that goes on to a next state went through one. -/
theorem Result.andThen_eq_next {r : Result} {f : State → Result} {t : State} (h : r.andThen f = .next t) :
    ∃ s, r = .next s ∧ f s = .next t := by
  cases r with
  | next s => exact ⟨s, rfl, h⟩
  | fault e => simp [Result.andThen] at h
  | refused e => simp [Result.andThen] at h

/-- An abnormal outcome only responds 0. -/
@[simp] theorem raise_eq (x : Abnormal) (s : State) : raise x s = .next (s.respond 0#32) := rfl

/-! ### Operands -/

/-- An operand names a motor index exactly when it is below `N_MOT`. -/
theorem motorOf_eq_some {p : Params} {m : BitVec 4} {k : MotIdx} :
    motorOf p m = some k ↔ m.toNat = k.val ∧ k.val < p.nMot := by
  unfold motorOf
  have := k.isLt
  constructor
  · intro h
    split at h
    · next hlt => cases h; exact ⟨rfl, hlt.2⟩
    · cases h
  · rintro ⟨h, hk⟩
    rw [dif_pos ⟨by omega, by omega⟩]
    exact congrArg some (Fin.ext h)

/-- An operand at `N_MOT` or above names no motor index. -/
theorem motorOf_eq_none {p : Params} {m : BitVec 4} (h : p.nMot ≤ m.toNat) : motorOf p m = none :=
  dif_neg fun hlt => absurd hlt.2 (by omega)

/-- An operand names a channel exactly when it is below `N_CH`. -/
theorem channelOf_eq_some {p : Params} {c : BitVec 4} {k : Chan} :
    channelOf p c = some k ↔ c.toNat = k.val ∧ k.val < p.nCh := by
  unfold channelOf
  have := k.isLt
  constructor
  · intro h
    split at h
    · next hlt => cases h; exact ⟨rfl, hlt.2⟩
    · cases h
  · rintro ⟨h, hk⟩
    rw [dif_pos ⟨by omega, by omega⟩]
    exact congrArg some (Fin.ext h)

/-- An operand at `N_CH` or above names no channel. -/
theorem channelOf_eq_none {p : Params} {c : BitVec 4} (h : p.nCh ≤ c.toNat) : channelOf p c = none :=
  dif_neg fun hlt => absurd hlt.2 (by omega)

/-! ### Status bits -/

/-- The channels of the pool are those below `N_CH`. -/
@[simp] theorem mem_allChannels {p : Params} {c : Chan} : c ∈ allChannels p ↔ c.val < p.nCh := by
  have h : ∀ c : Chan, c ∈ ([0, 1, 2, 3, 4, 5, 6, 7, 8, 9, 10, 11, 12, 13, 14] : List Chan) := by decide
  simp only [allChannels, List.mem_filter, decide_eq_true_eq]
  exact ⟨fun h => h.2, fun hc => ⟨h c, hc⟩⟩

theorem nodup_allChannels (p : Params) : (allChannels p).Nodup :=
  List.Nodup.filter _ (by decide)

/-- The pending bits are the set ones. -/
theorem State.mem_pending {p : Params} {s : State} {b : EvKind × Chan} :
    b ∈ s.pending p ↔ b.2.val < p.nCh ∧ (match b.1 with | .tx => s.txDoneBit b.2 | .rx => s.rxDoneBit b.2) = true := by
  obtain ⟨k, c⟩ := b
  cases k <;> simp [State.pending]

theorem State.nodup_pending (p : Params) (s : State) : (s.pending p).Nodup := by
  unfold State.pending
  rw [List.nodup_append]
  refine ⟨?_, ?_, ?_⟩
  · exact ((nodup_allChannels p).filter _).map (fun a b h => by simpa using h)
  · exact ((nodup_allChannels p).filter _).map (fun a b h => by simpa using h)
  · intro a ha b hb e
    subst e
    simp only [List.mem_map] at ha hb
    obtain ⟨_, _, rfl⟩ := ha
    obtain ⟨_, _, h⟩ := hb
    cases h

/-- No interrupt is requested exactly when no bit of the pool is set. -/
theorem State.irq_eq_false {p : Params} {s : State} :
    s.irq p = false ↔ ∀ c : Chan, c.val < p.nCh → s.txDoneBit c = false ∧ s.rxDoneBit c = false := by
  simp only [State.irq, Bool.or_eq_false_iff, List.any_eq_false, mem_allChannels, Bool.not_eq_true]
  exact ⟨fun h c hc => ⟨h.1 c hc, h.2 c hc⟩, fun h => ⟨fun c hc => (h c hc).1, fun c hc => (h c hc).2⟩⟩

theorem State.pending_isEmpty {p : Params} {s : State} : (s.pending p).isEmpty = !s.irq p := by
  have h : (s.pending p).isEmpty = true ↔ s.irq p = false := by
    rw [List.isEmpty_iff, State.irq_eq_false, List.eq_nil_iff_forall_not_mem]
    constructor
    · intro h c hc
      exact ⟨by simpa [State.mem_pending, hc] using h (.tx, c), by simpa [State.mem_pending, hc] using h (.rx, c)⟩
    · rintro h ⟨k, c⟩ hb
      rw [State.mem_pending] at hb
      obtain ⟨h1, h2⟩ := h c hb.1
      cases k
      · exact absurd hb.2 (by simp [h1])
      · exact absurd hb.2 (by simp [h2])
  cases hi : s.irq p <;> cases hp : (s.pending p).isEmpty <;> simp_all

/-! ### Channel choice -/

theorem State.mem_freeChannels {p : Params} {s : State} {c : Chan} :
    c ∈ s.freeChannels p ↔ c.val < p.nCh ∧ s.owner c = none := by
  simp [State.freeChannels]

theorem State.nodup_freeChannels (p : Params) (s : State) : (s.freeChannels p).Nodup := (nodup_allChannels p).filter _

theorem pickChannel_mem {l : List Chan} (h : l ≠ []) (n : Nat) : pickChannel n l ∈ l := by
  have hl : 0 < l.length := List.length_pos_iff.2 h
  have : n % l.length < l.length := Nat.mod_lt _ hl
  simp only [pickChannel, List.getD_eq_getElem?_getD, List.getElem?_eq_getElem this, Option.getD_some]
  exact List.getElem_mem this

/-- Everything a bind can answer: too few free channels and nothing, or free and distinct channels. -/
theorem bindChannels_cases (p : Params) (s : State) (bidir : Bool) :
    ((s.freeChannels p).length < channelsNeeded bidir ∧ bindChannels p s bidir = none) ∨
    (channelsNeeded bidir ≤ (s.freeChannels p).length ∧ bidir = false ∧
      ∃ tx, bindChannels p s bidir = some (tx, none) ∧ tx.val < p.nCh ∧ s.owner tx = none) ∨
    (channelsNeeded bidir ≤ (s.freeChannels p).length ∧ bidir = true ∧
      ∃ tx rx, bindChannels p s bidir = some (tx, some rx) ∧ tx.val < p.nCh ∧ s.owner tx = none ∧ rx.val < p.nCh ∧
        s.owner rx = none ∧ rx ≠ tx) := by
  unfold bindChannels
  by_cases h : (s.freeChannels p).length < channelsNeeded bidir
  · exact .inl ⟨h, if_pos h⟩
  · rw [if_neg h]
    have hne : s.freeChannels p ≠ [] := by
      intro e
      cases bidir <;> simp [e, channelsNeeded] at h
    have htx := pickChannel_mem hne (p.allocChoice s.choices 0)
    cases bidir with
    | false =>
      obtain ⟨h1, h2⟩ := State.mem_freeChannels.1 htx
      exact .inr (.inl ⟨by omega, rfl, _, rfl, h1, h2⟩)
    | true =>
      have hne' : (s.freeChannels p).erase (pickChannel (p.allocChoice s.choices 0) (s.freeChannels p)) ≠ [] := by
        intro e
        have := List.length_erase_of_mem htx
        simp only [e, List.length_nil] at this
        simp [channelsNeeded] at h
        omega
      have hrx := pickChannel_mem hne' (p.allocChoice s.choices 1)
      rw [(State.nodup_freeChannels p s).mem_erase_iff] at hrx
      obtain ⟨h1, h2⟩ := State.mem_freeChannels.1 htx
      obtain ⟨h3, h4⟩ := State.mem_freeChannels.1 hrx.2
      exact .inr (.inr ⟨by omega, rfl, _, _, rfl, h1, h2, h3, h4, hrx.1⟩)

/-! ### BRINGUP -/

@[simp] theorem State.commitRx_none (s : State) (m : MotIdx) (pin : Pin) : s.commitRx m pin none = s := rfl

@[simp] theorem State.commitRx_some (s : State) (m : MotIdx) (pin : Pin) (c : Chan) :
    s.commitRx m pin (some c) = ((s.setOwner c (some m)).setRxOwner c (some m)).emit (.cfgRx c pin) := rfl

/-- Everything BRINGUP can do: respond 0 and nothing else, or commit free channels and respond 1. -/
theorem bringupOp_cases (p : Params) (m : BitVec 4) (pin : Pin) (code : BitVec 4) (s : State) :
    bringupOp p m pin code s = .next (s.respond 0#32) ∨
    ∃ k tx rx, motorOf p m = some k ∧ (s.motor k).bound = false ∧ tx.val < p.nCh ∧ s.owner tx = none ∧
      (classBidir (normClass p code) = false → rx = none) ∧
      (classBidir (normClass p code) = true → ∃ r, rx = some r ∧ r.val < p.nCh ∧ s.owner r = none ∧ r ≠ tx) ∧
      bringupOp p m pin code s =
        .next (((s.commit k pin (normClass p code) tx rx).nextChoice).respond 1#32) := by
  unfold bringupOp
  cases hm : motorOf p m with
  | none => exact .inl rfl
  | some k =>
    cases hb : (s.motor k).bound with
    | true => exact .inl (by simp [hb])
    | false =>
      rcases bindChannels_cases p s (classBidir (normClass p code)) with
        ⟨_, h⟩ | ⟨_, hd, tx, h, hl, ht⟩ | ⟨_, hd, tx, rx, h, hl, ht, hl', hr, hne⟩
      · exact .inl (by simp [hb, h])
      · exact .inr ⟨k, tx, none, rfl, hb, hl, ht, fun _ => rfl, fun e => absurd (hd.symm.trans e) (by decide),
          by simp [hb, h]⟩
      · exact .inr ⟨k, tx, some rx, rfl, hb, hl, ht, fun e => absurd (hd.symm.trans e) (by decide),
          fun _ => ⟨rx, rfl, hl', hr, hne⟩, by simp [hb, h]⟩

/-! ### SEND -/

/-- Everything SEND can do: respond 0 and nothing else, be refused during a transmission under `SendWhileTx` = refuse, start a
transmission on the bound channel, or stop on a bound instance without a channel. -/
theorem sendOp_cases (p : Params) (m : BitVec 4) (a : Nat) (tlm : Bool) (s : State) :
    sendOp p m a tlm s = .next (s.respond 0#32) ∨
    (p.sendWhileTx = .refuse ∧ sendOp p m a tlm s = .refused .sendWhileTransmitting) ∨
    ∃ k, motorOf p m = some k ∧ (s.motor k).bound = true ∧ (s.motor k).st ≠ .transmitting ∧
      ((∃ c, (s.motor k).txCh = some c ∧
        sendOp p m a tlm s = .next ((startTransmission p k c a tlm s).respond 0#32)) ∨
      ((s.motor k).txCh = none ∧ sendOp p m a tlm s = .fault (.noTxChannel k))) := by
  unfold sendOp
  cases hm : motorOf p m with
  | none => exact .inl rfl
  | some k =>
    cases hb : (s.motor k).bound with
    | false => exact .inl (by simp [hb])
    | true =>
      by_cases hs : (s.motor k).st = .transmitting
      · cases hp : p.sendWhileTx with
        | drop => exact .inl (by simp [hb, hs])
        | refuse => exact .inr (.inl ⟨rfl, by simp [hb, hs]⟩)
      · refine .inr (.inr ⟨k, rfl, hb, hs, ?_⟩)
        cases hc : (s.motor k).txCh with
        | none => exact .inr ⟨rfl, by simp [hb, hs, hc]⟩
        | some c => exact .inl ⟨c, rfl, by simp [hb, hs, hc]⟩

/-- SEND to a bound instance that is not transmitting and has a channel starts a transmission. -/
theorem sendOp_starts (p : Params) {m : BitVec 4} {k : MotIdx} {c : Chan} (a : Nat) (tlm : Bool) {s : State}
    (hm : motorOf p m = some k) (hb : (s.motor k).bound = true) (hs : (s.motor k).st ≠ .transmitting)
    (hc : (s.motor k).txCh = some c) :
    sendOp p m a tlm s = .next ((startTransmission p k c a tlm s).respond 0#32) := by
  simp [sendOp, hm, hb, hs, hc]

@[simp] theorem trainOf_length (t : Timing) (f : Frame) (bidir : Bool) : (trainOf t f bidir).length = nSlots := by
  simp [trainOf]

@[simp] theorem encodeTrain_length (p : Params) (a : Nat) (tlm : Bool) (cls : SpeedClass) (bidir : Bool) :
    (encodeTrain p a tlm cls bidir).length = nSlots := trainOf_length _ _ _

/-! ### The services -/

/-- Everything the TX_DONE service can do. -/
theorem txDone_cases (m : MotIdx) (c : Chan) (s : State) :
    ((s.motor m).bidir = false ∧ txDone m c s = .next ((s.clearTxDone c).setSt m .idle)) ∨
    (∃ r, (s.motor m).bidir = true ∧ (s.motor m).rxCh = some r ∧
      txDone m c s = .next (((((s.clearTxDone c).lineToRx m).enablePullUp m).rxArm r).setSt m .awaitingReply)) ∨
    ((s.motor m).bidir = true ∧ (s.motor m).rxCh = none ∧ txDone m c s = .fault (.noRxChannel m)) := by
  unfold txDone
  cases hb : (s.motor m).bidir with
  | false => exact .inl ⟨rfl, by simp⟩
  | true =>
    cases hr : (s.motor m).rxCh with
    | none => exact .inr (.inr ⟨rfl, rfl, by simp⟩)
    | some r => exact .inr (.inl ⟨r, rfl, rfl, by simp⟩)

/-- The pairs read are the elements of the buffer, when the handler owns it and each has a value. -/
theorem State.readPairs_eq_some {s : State} {c : Chan} (n i : Nat) {l : List CapPair}
    (ho : s.capOwner c = .handler) (hl : l.length = n) (hn : i + n ≤ s.capLen c)
    (h : ∀ j, j < n → s.rxBuf.read (rxIndex c (i + j)) = l[j]?) : s.readPairs c i n = some l := by
  induction n generalizing i l with
  | zero => rw [List.length_eq_zero_iff.1 hl]; rfl
  | succ n ih =>
    cases l with
    | nil => simp at hl
    | cons q qs =>
      have h0 : s.memRead c i = some q := by
        have := h 0 (by omega)
        simp only [Nat.add_zero, List.getElem?_cons_zero] at this
        rw [State.memRead, if_pos ⟨ho, by omega⟩, this]
      have h1 : s.readPairs c (i + 1) n = some qs := by
        refine ih (i + 1) (by simpa using hl) (by omega) fun j hj => ?_
        have := h (j + 1) (by omega)
        rw [List.getElem?_cons_succ] at this
        rw [← this]
        congr 2
        omega
      simp [State.readPairs, h0, h1]

/-- Where each pair has a value and the handler owns the buffer, the pairs are read. -/
theorem State.readPairs_isSome {s : State} {c : Chan} (n i : Nat) (ho : s.capOwner c = .handler) (hn : i + n ≤ s.capLen c)
    (h : ∀ j, j < s.capLen c → (s.rxBuf.read (rxIndex c j)).isSome = true) : (s.readPairs c i n).isSome = true := by
  induction n generalizing i with
  | zero => rfl
  | succ n ih =>
    obtain ⟨q, hq⟩ := Option.isSome_iff_exists.1 (h i (by omega))
    obtain ⟨qs, hqs⟩ := Option.isSome_iff_exists.1 (ih (i + 1) (by omega))
    have h0 : s.memRead c i = some q := by rw [State.memRead, if_pos ⟨ho, by omega⟩, hq]
    simp [State.readPairs, h0, hqs]

/-- The pairs read are as many as were asked for. -/
theorem State.readPairs_length {s : State} {c : Chan} (n i : Nat) {l : List CapPair} (h : s.readPairs c i n = some l) :
    l.length = n := by
  induction n generalizing i l with
  | zero => cases h; rfl
  | succ n ih =>
    simp only [State.readPairs] at h
    split at h
    · next q qs _ hqs => cases h; simp [ih (i + 1) hqs]
    · cases h

/-- Everything the RX_DONE service can do. -/
theorem rxDone_cases (p : Params) (m : MotIdx) (c : Chan) (s : State) :
    (((s.clearRxDone c).rxTake c).readCapture c = none ∧ rxDone p m c s = .fault (.captureUnreadable c)) ∨
    ∃ cap, ((s.clearRxDone c).rxTake c).readCapture c = some cap ∧
      rxDone p m c s =
        .next (((((s.clearRxDone c).rxTake c).modMotor m (tlmUpdate p cap)).rxRelease c).endReply m) := by
  unfold rxDone
  cases h : ((s.clearRxDone c).rxTake c).readCapture c with
  | none => exact .inl ⟨rfl, rfl⟩
  | some cap => exact .inr ⟨cap, rfl, rfl⟩

/-- RX_DONE takes the capture that stands in the buffer. -/
theorem rxDone_of_capture (p : Params) (m : MotIdx) {c : Chan} {s : State} {cap : List CapPair}
    (hl : cap.length = s.capLen c) (h : ∀ i, i < cap.length → s.rxBuf.read (rxIndex c i) = cap[i]?) :
    rxDone p m c s =
      .next (((((s.clearRxDone c).rxTake c).modMotor m (tlmUpdate p cap)).rxRelease c).endReply m) := by
  have : ((s.clearRxDone c).rxTake c).readCapture c = some cap := by
    have hlen : ((s.clearRxDone c).rxTake c).capLen c = s.capLen c := rfl
    unfold State.readCapture
    refine State.readPairs_eq_some _ 0 ?_ (hl.trans hlen.symm) (by omega) fun j hj => ?_
    · simp [State.rxTake]
    · rw [Nat.zero_add]; exact h j (by rw [hl]; exact hlen ▸ hj)
  simp [rxDone, this]

/-! ### The order of a run -/

/-- A run services the set bits, each once, in some order. -/
theorem arrange_perm {α : Type} (choice : Nat → Nat) (fuel j : Nat) (l : List α) :
    (arrange choice fuel j l).Perm l := by
  induction fuel generalizing j l with
  | zero => exact .refl _
  | succ n ih =>
    match l with
    | [] => exact .refl _
    | [x] => exact .refl _
    | x :: y :: ys =>
      have hlt : choice j % (x :: y :: ys).length < (x :: y :: ys).length := Nat.mod_lt _ (by simp)
      simp only [arrange, List.getD_eq_getElem?_getD, List.getElem?_eq_getElem hlt, Option.getD_some]
      refine ((ih (j + 1) _).cons _).trans ?_
      exact List.getElem_cons_eraseIdx_perm hlt

theorem serviceOrder_perm (p : Params) (n : Nat) (bits : List (EvKind × Chan)) : (serviceOrder p n bits).Perm bits :=
  arrange_perm _ _ _ _

/-- A property of states that every service of a bit of the run keeps holds after the run, and if each answers a next state so does
the run. -/
theorem serviceAll_next {p : Params} {P : State → Prop} {bits : List (EvKind × Chan)} {s : State}
    (h : ∀ b ∈ bits, ∀ s, P s → ∃ t, serviceBit p b s = .next t ∧ P t) (hs : P s) :
    ∃ t, serviceAll p bits s = .next t ∧ P t := by
  induction bits generalizing s with
  | nil => exact ⟨s, rfl, hs⟩
  | cons b bs ih =>
    obtain ⟨s', h1, hs'⟩ := h b List.mem_cons_self s hs
    obtain ⟨t, h2, ht⟩ := ih (fun b hb => h b (List.mem_cons_of_mem _ hb)) hs'
    exact ⟨t, by simp [serviceAll, h1, h2], ht⟩

/-- A property of states that every service keeps, when it answers a next state, holds after a run that answers one. -/
theorem serviceAll_keeps {p : Params} {P : State → Prop} {bits : List (EvKind × Chan)} {s t : State}
    (h : ∀ b ∈ bits, ∀ s t, P s → serviceBit p b s = .next t → P t) (hs : P s) (ht : serviceAll p bits s = .next t) : P t := by
  induction bits generalizing s with
  | nil => cases ht; exact hs
  | cons b bs ih =>
    obtain ⟨s', h1, h2⟩ := Result.andThen_eq_next ht
    exact ih (fun b hb => h b (List.mem_cons_of_mem _ hb)) (h b List.mem_cons_self s s' hs h1) h2

end Sys2Proof.Machine
end

