-- ==== Sys2Proof/Laws/Exec.lean ====
section
/-!
SUPPORT. Everything an operation, an event or a step can answer, said once, with what a transmission and a commit change.
-/

namespace Sys2Proof.Machine

/-- The record changes of a started transmission. -/
theorem startTransmission_motor (p : Params) (m : MotIdx) (c : Chan) (a : Nat) (tlm : Bool) (s : State) (j : MotIdx) :
    (startTransmission p m c a tlm s).motor j =
      if j = m then
        { s.motor m with st := .transmitting, line := if (s.motor m).bidir then .tx else (s.motor m).line }
      else s.motor j := by
  simp only [startTransmission, State.park, State.txLoad, State.txStart, State.lineToTx, State.setSt]
  split <;> by_cases h : j = m <;> simp_all

/-- The actions of a started transmission. -/
theorem startTransmission_trace (p : Params) (m : MotIdx) (c : Chan) (a : Nat) (tlm : Bool) (s : State) :
    (startTransmission p m c a tlm s).trace = s.trace ++
      (if (s.motor m).bidir then [.pinSet (s.motor m).pin true, .lineToTx m] else []) ++
      [.txLoad c (encodeTrain p a tlm (s.motor m).cls (s.motor m).bidir), .txStart c] := by
  simp only [startTransmission, State.park, State.txLoad, State.txStart, State.lineToTx, State.setSt]
  split <;> simp

/-- The transmission in flight after a start. -/
theorem startTransmission_inFlight (p : Params) (m : MotIdx) (c : Chan) (a : Nat) (tlm : Bool) (s : State) (d : Chan) :
    (startTransmission p m c a tlm s).inFlight d = if d = c then true else s.inFlight d := by
  simp only [startTransmission, State.park, State.txLoad, State.txStart, State.lineToTx, State.setSt]
  split <;> simp

/-- The transmit buffer after a start. -/
theorem startTransmission_txBuf (p : Params) (m : MotIdx) (c : Chan) (a : Nat) (tlm : Bool) (s : State) :
    (startTransmission p m c a tlm s).txBuf =
      s.txBuf.writeFrom (txIndex c 0) (encodeTrain p a tlm (s.motor m).cls (s.motor m).bidir) := by
  simp only [startTransmission, State.park, State.txLoad, State.txStart, State.lineToTx, State.setSt]
  split <;> simp

/-- What a started transmission leaves alone. -/
theorem startTransmission_rest (p : Params) (m : MotIdx) (c : Chan) (a : Nat) (tlm : Bool) (s : State) :
    (startTransmission p m c a tlm s).pool = s.pool ∧ (startTransmission p m c a tlm s).txMap = s.txMap ∧
    (startTransmission p m c a tlm s).rxMap = s.rxMap ∧ (startTransmission p m c a tlm s).txSt = s.txSt ∧
    (startTransmission p m c a tlm s).rxSt = s.rxSt ∧ (startTransmission p m c a tlm s).rxBuf = s.rxBuf ∧
    (startTransmission p m c a tlm s).rxLen = s.rxLen ∧ (startTransmission p m c a tlm s).rxOwn = s.rxOwn ∧
    (startTransmission p m c a tlm s).rxArmed = s.rxArmed ∧ (startTransmission p m c a tlm s).inputs = s.inputs ∧
    (startTransmission p m c a tlm s).responses = s.responses ∧ (startTransmission p m c a tlm s).choices = s.choices := by
  simp only [startTransmission, State.park, State.txLoad, State.txStart, State.lineToTx, State.setSt]
  split <;> simp

/-- What a commit of distinct channels changes, and that it changes nothing else. -/
theorem commit_effect (s : State) (m : MotIdx) (pin : Pin) (cls : SpeedClass) (tx : Chan) (rx : Option Chan)
    (h : ∀ r, rx = some r → r ≠ tx) :
    (∀ j, (s.commit m pin cls tx rx).motor j = if j = m then freshMotor pin cls tx rx else s.motor j) ∧
    (∀ c, (s.commit m pin cls tx rx).owner c = if c = tx ∨ rx = some c then some m else s.owner c) ∧
    (∀ c, (s.commit m pin cls tx rx).txOwner c = if c = tx then some m else s.txOwner c) ∧
    (∀ c, (s.commit m pin cls tx rx).rxOwner c = if rx = some c then some m else s.rxOwner c) ∧
    (s.commit m pin cls tx rx).trace =
      s.trace ++ [.cfgTx tx pin] ++ (match rx with | none => [] | some r => [.cfgRx r pin]) ∧
    s.commit m pin cls tx rx =
      { s with
        mot := (s.commit m pin cls tx rx).mot
        pool := (s.commit m pin cls tx rx).pool
        txMap := (s.commit m pin cls tx rx).txMap
        rxMap := (s.commit m pin cls tx rx).rxMap
        trace := (s.commit m pin cls tx rx).trace } := by
  cases rx with
  | none =>
    refine ⟨?_, ?_, ?_, ?_, ?_, rfl⟩ <;> simp [State.commit]
  | some r =>
    have hr := h r rfl
    refine ⟨?_, ?_, ?_, ?_, ?_, rfl⟩
    · simp [State.commit]
    · intro c; by_cases h1 : c = tx <;> by_cases h2 : r = c <;> simp_all [State.commit, eq_comm]
    · simp [State.commit]
    · intro c; simp [State.commit, eq_comm]
    · simp [State.commit]

/-- The machine is `execAt` at its own parameters. -/
theorem execAt_params (i : Instr) (s : State) : execAt Config.params i s = exec i s := by
  cases i <;> rfl

/-- The machine's step is `stepAt` at its own parameters. -/
theorem stepAt_params (s : State) : stepAt Config.params s = step s := by
  unfold stepAt step
  cases s.takeInput with
  | none => rfl
  | some x =>
    cases h : decode x.1 with
    | ok i => simp only [h, execAt_params]
    | error e => simp only [h]

/-- Everything `execAt` can answer as a next state. -/
inductive ExecCase (p : Params) (s : State) : Instr → State → Prop where
  /-- A response and nothing else. -/
  | responds (i : Instr) (w : Word) : i ≠ .isr → ExecCase p s i (s.respond w)
  /-- Nothing: an event on a channel that is none. -/
  | nothing (i : Instr) : ExecCase p s i s
  /-- A committed bring-up. -/
  | commits (m : BitVec 4) (pin : Pin) (code : BitVec 4) (k : MotIdx) (tx : Chan) (rx : Option Chan) :
      motorOf p m = some k → (s.motor k).bound = false → tx.val < p.nCh → s.owner tx = none →
      (classBidir (normClass p code) = false → rx = none) →
      (classBidir (normClass p code) = true → ∃ r, rx = some r ∧ r.val < p.nCh ∧ s.owner r = none ∧ r ≠ tx) →
      ExecCase p s (.bringup m pin code) (((s.commit k pin (normClass p code) tx rx).nextChoice).respond 1#32)
  /-- A started transmission, by SEND, THROTTLE or COMMAND. -/
  | transmits (i : Instr) (k : MotIdx) (c : Chan) (a : Nat) (tlm : Bool) :
      (∀ x, i ≠ .evTx x) → (∀ x l, i ≠ .evRx x l) → i ≠ .isr →
      (s.motor k).bound = true → (s.motor k).st ≠ .transmitting → (s.motor k).txCh = some c →
      ExecCase p s i ((startTransmission p k c a tlm s).respond 0#32)
  /-- A transmit-complete event. -/
  | transmitted (x : BitVec 4) (k : Chan) : channelOf p x = some k → ExecCase p s (.evTx x) (transmitComplete k s)
  /-- A receive-complete event. -/
  | received (x : BitVec 4) (l : List CapPair) (k : Chan) (h : l.length < capMax + 1) :
      channelOf p x = some k → ExecCase p s (.evRx x l) (receiveComplete k l h s)
  /-- A handler run. -/
  | handled (t : State) : isrOp p s = .next t → ExecCase p s .isr t

/-- SEND answers a response alone or starts a transmission. -/
theorem sendOp_execCase {p : Params} {i : Instr} {m : BitVec 4} {a : Nat} {tlm : Bool} {s t : State}
    (hi : (∀ x, i ≠ .evTx x) ∧ (∀ x l, i ≠ .evRx x l) ∧ i ≠ .isr) (h : sendOp p m a tlm s = .next t) :
    ExecCase p s i t := by
  rcases sendOp_cases p m a tlm s with h' | ⟨_, h'⟩ | ⟨k, hk, hb, hs, ⟨c, hc, h'⟩ | ⟨_, h'⟩⟩ <;> rw [h'] at h <;> cases h
  · exact .responds _ _ hi.2.2
  · exact .transmits _ _ _ _ _ hi.1 hi.2.1 hi.2.2 hb hs hc

/-- Every next state of `execAt` is one of the cases. -/
theorem execAt_cases {p : Params} {i : Instr} {s t : State} (h : execAt p i s = .next t) : ExecCase p s i t := by
  cases i with
  | bringup m pin code =>
    change bringupOp p m pin code s = .next t at h
    rcases bringupOp_cases p m pin code s with h' | ⟨k, tx, rx, h1, h2, h3, h4, h5, h6, h'⟩ <;> rw [h'] at h <;> cases h
    · exact .responds _ _ (by simp)
    · exact .commits _ _ _ _ _ _ h1 h2 h3 h4 h5 h6
  | throttle m tlm th => exact sendOp_execCase (by simp) h
  | send m tlm value => exact sendOp_execCase (by simp) h
  | command m tlm code =>
    simp only [execAt, commandOp] at h
    split at h
    · cases h; exact .responds _ _ (by simp)
    · exact sendOp_execCase (by simp) h
  | read m sel =>
    simp only [execAt, readOp] at h
    split at h <;> cases h <;> exact .responds _ _ (by simp)
  | evTx x =>
    simp only [execAt, evTxOp] at h
    split at h <;> cases h
    · exact .nothing _
    · exact .transmitted _ _ (by assumption)
  | evRx x l =>
    simp only [execAt, evRxOp] at h
    split at h
    · cases h; exact .nothing _
    · split at h <;> cases h
      exact .received _ _ _ _ (by assumption)
  | isr => exact .handled _ h
  | nop => cases h; exact .responds _ _ (by simp)
  | reserved6 => cases h; exact .responds _ _ (by simp)
  | reserved7 => cases h; exact .responds _ _ (by simp)
  | reservedB => cases h; exact .responds _ _ (by simp)
  | reservedC => cases h; exact .responds _ _ (by simp)
  | reservedD => cases h; exact .responds _ _ (by simp)
  | reservedE => cases h; exact .responds _ _ (by simp)
  | reservedF => cases h; exact .responds _ _ (by simp)

/-- Every next state of `exec` is one of the cases. -/
theorem exec_cases {i : Instr} {s t : State} (h : exec i s = .next t) : ExecCase Config.params s i t :=
  execAt_cases ((execAt_params i s).trans h)

/-- Every next state of `stepAt`: the same state at an empty port, or `execAt` of the decoded word. -/
theorem stepAt_cases {p : Params} {s t : State} (h : stepAt p s = .next t) :
    (s.inputs = [] ∧ t = s) ∨
    ∃ inp rest i, s.inputs = inp :: rest ∧ decode inp = .ok i ∧ execAt p i (s.setInputs rest) = .next t := by
  unfold stepAt State.takeInput at h
  cases hi : s.inputs with
  | nil =>
    rw [hi] at h
    simp [waitForHost] at h
    exact .inl ⟨rfl, h.symm⟩
  | cons inp rest =>
    rw [hi] at h
    simp only at h
    cases hd : decode inp with
    | ok i => rw [hd] at h; exact .inr ⟨inp, rest, i, rfl, hd, h⟩
    | error e => rw [hd] at h; cases h

/-- Every next state of `step`: the same state at an empty port, or `exec` of the decoded word. -/
theorem step_cases {s t : State} (h : step s = .next t) :
    (s.inputs = [] ∧ t = s) ∨
    ∃ inp rest i, s.inputs = inp :: rest ∧ decode inp = .ok i ∧ exec i (s.setInputs rest) = .next t := by
  simpa only [execAt_params] using stepAt_cases ((stepAt_params s).trans h)

end Sys2Proof.Machine
end

