-- ==== Sys2Proof/Laws/PerInstr.lean ====
section
/-!
SUPPORT. Statements made of every instruction, one lemma per constructor.
-/

namespace Sys2Proof.Laws.OpcodeField

/-- The opcode of an instruction (R113, spec/opcode_table.json). -/
def opcodeOf : Instr → BitVec 4
  | .nop => 0x0#4
  | .bringup _ _ _ => 0x1#4
  | .throttle _ _ _ => 0x2#4
  | .command _ _ _ => 0x3#4
  | .send _ _ _ => 0x4#4
  | .read _ _ => 0x5#4
  | .reserved6 => 0x6#4
  | .reserved7 => 0x7#4
  | .evTx _ => 0x8#4
  | .evRx _ _ => 0x9#4
  | .isr => 0xA#4
  | .reservedB => 0xB#4
  | .reservedC => 0xC#4
  | .reservedD => 0xD#4
  | .reservedE => 0xE#4
  | .reservedF => 0xF#4

/-- The encoded word carries the instruction's opcode in `W[31:28]`, and its reserved bits `W[23:17]` are 0 (R112, R114). -/
def Statement (i : Instr) : Prop :=
  opField (encode i).word = opcodeOf i ∧ (encode i).word.extractLsb' 17 7 = 0#7

/-- The opcode and the reserved bits of a packed word. -/
theorem packWord_fields (op index : BitVec 4) (tlm : Bool) (arg : BitVec 16) :
    opField (packWord op index tlm arg) = op ∧ (packWord op index tlm arg).extractLsb' 17 7 = 0#7 := by
  constructor
  · apply BitVec.eq_of_getLsbD_eq
    intro i hi
    unfold opField packWord
    simp only [BitVec.getLsbD_extractLsb', BitVec.getLsbD_append]
    interval_cases i <;> simp
  · apply BitVec.eq_of_getLsbD_eq
    intro i hi
    unfold packWord
    simp only [BitVec.getLsbD_extractLsb', BitVec.getLsbD_append]
    interval_cases i <;> simp

theorem nop : Statement .nop := packWord_fields _ _ _ _
theorem bringup (m : BitVec 4) (pin : Pin) (code : BitVec 4) : Statement (.bringup m pin code) := packWord_fields _ _ _ _
theorem throttle (m : BitVec 4) (tlm : Bool) (t : BitVec 16) : Statement (.throttle m tlm t) := packWord_fields _ _ _ _
theorem command (m : BitVec 4) (tlm : Bool) (code : BitVec 16) : Statement (.command m tlm code) := packWord_fields _ _ _ _
theorem send (m : BitVec 4) (tlm : Bool) (value : BitVec 16) : Statement (.send m tlm value) := packWord_fields _ _ _ _
theorem read (m : BitVec 4) (sel : BitVec 8) : Statement (.read m sel) := packWord_fields _ _ _ _
theorem reserved6 : Statement .reserved6 := packWord_fields _ _ _ _
theorem reserved7 : Statement .reserved7 := packWord_fields _ _ _ _
theorem evTx (c : BitVec 4) : Statement (.evTx c) := packWord_fields _ _ _ _
theorem evRx (c : BitVec 4) (capture : List CapPair) : Statement (.evRx c capture) := packWord_fields _ _ _ _
theorem isr : Statement .isr := packWord_fields _ _ _ _
theorem reservedB : Statement .reservedB := packWord_fields _ _ _ _
theorem reservedC : Statement .reservedC := packWord_fields _ _ _ _
theorem reservedD : Statement .reservedD := packWord_fields _ _ _ _
theorem reservedE : Statement .reservedE := packWord_fields _ _ _ _
theorem reservedF : Statement .reservedF := packWord_fields _ _ _ _

end Sys2Proof.Laws.OpcodeField
end

