-- ==== Sys2Proof/Laws/Services.lean ====
section
/-!
SUPPORT. What one service of an owning instance does to the state, said once: a `Change` that depends on the record of the owner and
on the capture alone, whatever the rest of the state.
-/

namespace Sys2Proof.Machine

/-- The change a service makes: the new record of the owner, the status bits it clears, the capture buffer it hands to the
peripheral, the channel it arms and the actions it emits. -/
structure Change where
  record : Motor
  clearsTx : Option Chan
  clearsRx : Option Chan
  hands : Option Chan
  arms : Option Chan
  actions : List Action

/-- `t` is `s` with the change `e` made by instance `m`, and nothing else. -/
structure Change.Leads (e : Change) (m : MotIdx) (s t : State) : Prop where
  motor : ∀ j, t.motor j = if j = m then e.record else s.motor j
  txDoneBit : ∀ d, t.txDoneBit d = if e.clearsTx = some d then false else s.txDoneBit d
  rxDoneBit : ∀ d, t.rxDoneBit d = if e.clearsRx = some d then false else s.rxDoneBit d
  capOwner : ∀ d, t.capOwner d = if e.hands = some d then .periph else s.capOwner d
  armed : ∀ d, t.armed d = if e.arms = some d then s.armed d + 1 else s.armed d
  trace : t.trace = s.trace ++ e.actions
  rest : t = { s with mot := t.mot, txSt := t.txSt, rxSt := t.rxSt, rxOwn := t.rxOwn, rxArmed := t.rxArmed, trace := t.trace }

/-- Two vectors equal at every index are equal. -/
theorem vector_ext {α : Type} {n : Nat} {v w : Vector α n} (h : ∀ i : Fin n, v[i] = w[i]) : v = w := by
  apply Vector.ext
  intro i hi
  exact h ⟨i, hi⟩

/-- A decode result leaves the half-duplex fields and the identity of a record alone. -/
theorem applyResult_keeps (res : DecodeResult) (r : Motor) :
    (applyResult res r).st = r.st ∧ (applyResult res r).line = r.line ∧ (applyResult res r).pullup = r.pullup ∧
    SameIdentity r (applyResult res r) := by
  cases res with
  | ok v => simp only [applyResult, routeValue]; split <;> exact ⟨rfl, rfl, rfl, ⟨rfl, rfl, rfl, rfl, rfl, rfl⟩⟩
  | noEdge => exact ⟨rfl, rfl, rfl, ⟨rfl, rfl, rfl, rfl, rfl, rfl⟩⟩
  | badGcr => exact ⟨rfl, rfl, rfl, ⟨rfl, rfl, rfl, rfl, rfl, rfl⟩⟩
  | badCsum => exact ⟨rfl, rfl, rfl, ⟨rfl, rfl, rfl, rfl, rfl, rfl⟩⟩

/-- The change of TX_DONE on channel `c` for a bidirectional record `x` with receive channel `r` (R216). -/
def txChangeBidir (m : MotIdx) (c r : Chan) (x : Motor) : Change where
  record := { x with st := .awaitingReply, line := .rx, pullup := true }
  clearsTx := some c
  clearsRx := none
  hands := some r
  arms := some r
  actions := [.stClear .tx c, .lineToRx m, .pullUp x.pin, .rxArm r]

/-- The change of TX_DONE on channel `c` for a unidirectional record `x` (R216). -/
def txChangeUnidir (c : Chan) (x : Motor) : Change where
  record := { x with st := .idle }
  clearsTx := some c
  clearsRx := none
  hands := none
  arms := none
  actions := [.stClear .tx c]

/-- The change of RX_DONE on channel `c` for a record `x` and the capture taken (R220 to R222). -/
def rxChange (p : Params) (m : MotIdx) (c : Chan) (cap : List CapPair) (x : Motor) : Change where
  record :=
    if x.st = .awaitingReply then { tlmUpdate p cap x with st := .idle, line := .tx } else tlmUpdate p cap x
  clearsTx := none
  clearsRx := some c
  hands := some c
  arms := none
  actions := [.stClear .rx c, .rxTake c, .rxRelease c] ++ (if x.st = .awaitingReply then [.lineToTx m] else [])

/-- Everything TX_DONE does for a bidirectional instance with a receive channel. -/
theorem txDone_bidir {m : MotIdx} {r : Chan} {s : State} (c : Chan) (hb : (s.motor m).bidir = true)
    (hr : (s.motor m).rxCh = some r) :
    ∃ t, txDone m c s = .next t ∧ (txChangeBidir m c r (s.motor m)).Leads m s t := by
  refine ⟨_, by simp only [txDone, hb, hr, if_true]; rfl, ?_⟩
  constructor
  · intro j
    simp only [txChangeBidir, State.clearTxDone, State.lineToRx, State.enablePullUp, State.rxArm, State.setSt]
    by_cases h : j = m <;> simp [h]
  · intro j; simp [txChangeBidir, State.clearTxDone, State.lineToRx, State.enablePullUp, State.rxArm, State.setSt, eq_comm]
  · intro j; simp [txChangeBidir, State.clearTxDone, State.lineToRx, State.enablePullUp, State.rxArm, State.setSt]
  · intro j; simp [txChangeBidir, State.clearTxDone, State.lineToRx, State.enablePullUp, State.rxArm, State.setSt, eq_comm]
  · intro j
    simp only [txChangeBidir, State.clearTxDone, State.lineToRx, State.enablePullUp, State.rxArm, State.setSt]
    by_cases h : j = r
    · simp [h]
    · simp [h, Ne.symm h]
  · simp [txChangeBidir, State.clearTxDone, State.lineToRx, State.enablePullUp, State.rxArm, State.setSt]
  · rfl

/-- Everything TX_DONE does for a unidirectional instance. -/
theorem txDone_unidir {m : MotIdx} {s : State} (c : Chan) (hb : (s.motor m).bidir = false) :
    ∃ t, txDone m c s = .next t ∧ (txChangeUnidir c (s.motor m)).Leads m s t := by
  refine ⟨_, by simp only [txDone, hb, if_false, Bool.false_eq_true]; rfl, ?_⟩
  constructor
  · intro j; simp [txChangeUnidir, State.clearTxDone, State.setSt]
  · intro j; simp [txChangeUnidir, State.clearTxDone, State.setSt, eq_comm]
  · intro j; simp [txChangeUnidir, State.clearTxDone, State.setSt]
  · intro j; simp [txChangeUnidir, State.clearTxDone, State.setSt]
  · intro j; simp [txChangeUnidir, State.clearTxDone, State.setSt]
  · simp [txChangeUnidir, State.clearTxDone, State.setSt]
  · rfl

/-- The capture RX_DONE reads depends on the receive buffer and the capture lengths alone. -/
theorem readCapture_congr {s s' : State} {c : Chan} (h1 : s'.rxBuf = s.rxBuf) (h2 : s'.rxLen = s.rxLen) :
    ((s'.clearRxDone c).rxTake c).readCapture c = ((s.clearRxDone c).rxTake c).readCapture c := by
  have hl : ((s'.clearRxDone c).rxTake c).capLen c = ((s.clearRxDone c).rxTake c).capLen c := by
    simp [State.clearRxDone, State.rxTake, State.capLen, h2]
  have hm : ∀ i, ((s'.clearRxDone c).rxTake c).memRead c i = ((s.clearRxDone c).rxTake c).memRead c i := by
    intro i
    unfold State.memRead
    rw [hl]
    simp [State.clearRxDone, State.rxTake, h1]
  have hp : ∀ n i, ((s'.clearRxDone c).rxTake c).readPairs c i n = ((s.clearRxDone c).rxTake c).readPairs c i n := by
    intro n
    induction n with
    | zero => intro i; rfl
    | succ n ih => intro i; simp only [State.readPairs, hm, ih]
  unfold State.readCapture
  rw [hl]
  exact hp _ _

/-- RX_DONE can read the capture when every pair below its length has a value. -/
theorem readCapture_isSome {s : State} {c : Chan} (h : ∀ i, i < s.capLen c → (s.rxBuf.read (rxIndex c i)).isSome = true) :
    (((s.clearRxDone c).rxTake c).readCapture c).isSome = true := by
  unfold State.readCapture
  apply State.readPairs_isSome
  · simp [State.rxTake]
  · omega
  · intro j hj
    have := h j (by simpa [State.clearRxDone, State.rxTake] using hj)
    simpa [State.clearRxDone, State.rxTake] using this

/-- Everything RX_DONE does once it has read the capture. -/
theorem rxDone_leads (p : Params) {m : MotIdx} {c : Chan} {s : State} {cap : List CapPair}
    (h : ((s.clearRxDone c).rxTake c).readCapture c = some cap) :
    ∃ t, rxDone p m c s = .next t ∧ (rxChange p m c cap (s.motor m)).Leads m s t := by
  have hst : (tlmUpdate p cap (s.motor m)).st = (s.motor m).st :=
    (applyResult_keeps (decodeCapture cap (timingOf p (s.motor m).cls).bitNs) (s.motor m)).1
  refine ⟨_, by simp only [rxDone, h]; rfl, ?_⟩
  simp only [State.endReply]
  by_cases ha : (s.motor m).st = .awaitingReply
  · rw [if_pos (by simp [State.clearRxDone, State.rxTake, State.rxRelease, hst, ha])]
    constructor
    · intro j
      by_cases hj : j = m <;>
        simp [rxChange, State.clearRxDone, State.rxTake, State.rxRelease, State.setSt, State.lineToTx, ha, hj]
    · intro j; simp [rxChange, State.clearRxDone, State.rxTake, State.rxRelease, State.setSt, State.lineToTx]
    · intro j; simp [rxChange, State.clearRxDone, State.rxTake, State.rxRelease, State.setSt, State.lineToTx, eq_comm]
    · intro j
      by_cases hj : c = j
      · simp [rxChange, State.clearRxDone, State.rxTake, State.rxRelease, State.setSt, State.lineToTx, hj]
      · simp [rxChange, State.clearRxDone, State.rxTake, State.rxRelease, State.setSt, State.lineToTx, hj, Ne.symm hj]
    · intro j; simp [rxChange, State.clearRxDone, State.rxTake, State.rxRelease, State.setSt, State.lineToTx]
    · simp [rxChange, State.clearRxDone, State.rxTake, State.rxRelease, State.setSt, State.lineToTx, ha]
    · rfl
  · rw [if_neg (by simp [State.clearRxDone, State.rxTake, State.rxRelease, hst, ha])]
    constructor
    · intro j; simp [rxChange, State.clearRxDone, State.rxTake, State.rxRelease, ha]
    · intro j; simp [rxChange, State.clearRxDone, State.rxTake, State.rxRelease]
    · intro j; simp [rxChange, State.clearRxDone, State.rxTake, State.rxRelease, eq_comm]
    · intro j
      by_cases hj : c = j
      · simp [rxChange, State.clearRxDone, State.rxTake, State.rxRelease, hj]
      · simp [rxChange, State.clearRxDone, State.rxTake, State.rxRelease, hj, Ne.symm hj]
    · intro j; simp [rxChange, State.clearRxDone, State.rxTake, State.rxRelease]
    · simp [rxChange, State.clearRxDone, State.rxTake, State.rxRelease, ha]
    · rfl

end Sys2Proof.Machine
end

