-- ==== Sys2Proof/Machine/Pseudo.lean ====
section
/-!
DEFINITION. The pseudo-operations of spec/30_encoding.md R121 and the sends of the host program ARMALL (spec/45_facade.md R252),
as lists of operations. They are host software, not operations of the block (spec/00_scope.md R7).
-/

namespace Sys2Proof.Machine

/-- `STOP m [, TLM]` (R121). -/
def stopOp (m : BitVec 4) (tlm : Bool) : Instr := .command m tlm 0#16

/-- `ZERO m [, TLM]` (R121). -/
def zeroOp (m : BitVec 4) (tlm : Bool) : Instr := .throttle m tlm 0#16

/-- `SNAPSHOT m` (R121). -/
def snapshotOps (m : BitVec 4) : List Instr :=
  [.read m 0x00#8, .read m 0x01#8, .read m 0x02#8, .read m 0x03#8, .read m 0x08#8, .read m 0x09#8, .read m 0x0A#8,
    .read m 0x0B#8, .read m 0x0C#8, .read m 0x0D#8, .read m 0x0E#8, .read m 0x0F#8]

/-- One phase of ARMALL: `rounds` times an operation for each bound instance (R252). -/
def armPhase (op : BitVec 4 → Instr) (bound : List (BitVec 4)) (rounds : Nat) : List Instr :=
  (List.replicate rounds (bound.map op)).flatten

/-- The sends of phases 1 to 3 of ARMALL over the bound instances, the telemetry flag 0 (R252, D32). How many rounds fit a phase
is the open `ARM_PHASE_NS / ARM_PERIOD_NS`; phase 0 is a raw pin action of the host, outside the block. -/
def armAllSends (bound : List (BitVec 4)) (rounds : Nat) : List Instr :=
  armPhase (fun m => stopOp m false) bound rounds ++ armPhase (fun m => zeroOp m false) bound rounds ++
    armPhase (fun m => stopOp m false) bound rounds

end Sys2Proof.Machine
end

