-- ==== Sys2Proof/Tests/Slice0.lean ====
section
/-!
SUPPORT. Tests, their expected results taken from spec/95_test_vectors.md, and a witness for the hypotheses of each statement.
-/

namespace Sys2Proof.Tests

open Sys2Proof.Machine

set_option maxRecDepth 20000

/-! ### Helpers -/

/-- The next state of a result; the reset state where there is none. -/
def after (r : Result) : State :=
  match r with
  | .next s => s
  | .fault _ => State.reset
  | .refused _ => State.reset

/-- Did the result go on? -/
def goesOn (r : Result) : Bool :=
  match r with
  | .next _ => true
  | .fault _ => false
  | .refused _ => false

/-- A state that goes on goes on to its `after`. -/
theorem next_after {r : Result} (h : goesOn r = true) : r = .next (after r) := by
  cases r with
  | next s => rfl
  | fault e => cases h
  | refused e => cases h

/-- P1 step 1: instance 0 on pin 4, DSHOT600_BIDIR, channels 0 and 1. -/
def bound0 : State := after (bringupOp Params.reference 0#4 4#8 6#4 State.reset)

/-- Instance 1 on pin 5, DSHOT600, channel 2, besides instance 0. -/
def bound01 : State := after (bringupOp Params.reference 1#4 5#8 2#4 bound0)

/-- Instance 0 is transmitting the value 1048, flag 1. -/
def sent0 : State := after (sendOp Params.reference 0#4 1048 true bound01)

/-- The transmission of instance 0 is complete, its bit is set. -/
def played0 : State := transmitComplete 0 sent0

/-- P1 step 4: instance 0 awaits its reply. -/
def awaiting0 : State := after (isrOp Params.reference played0)

/-- The capture of `5A3` of section 2.4, P = 1333, without its terminator. -/
def runs5A3 : List CapPair :=
  [⟨1333#32, false⟩, ⟨2666#32, true⟩, ⟨2666#32, false⟩, ⟨2666#32, true⟩, ⟨2666#32, false⟩, ⟨2666#32, true⟩, ⟨3999#32, false⟩,
    ⟨1333#32, true⟩, ⟨1333#32, false⟩, ⟨3999#32, true⟩]

/-- The capture of `5A3`. -/
def cap5A3 : List CapPair := runs5A3 ++ [⟨1333#32, false⟩, ⟨0#32, true⟩]

/-- K7: the capture of `5A3` with a wrong checksum. -/
def capK7 : List CapPair := runs5A3 ++ [⟨2666#32, false⟩, ⟨0#32, true⟩]

/-- P1 step 5: the capture was delivered on channel 1. -/
def heard0 : State := receiveComplete 1 cap5A3 (by decide) awaiting0

/-- A late reply: the capture delivered on channel 1 while instance 0 is transmitting again. -/
def late0 : State := receiveComplete 1 cap5A3 (by decide) (after (sendOp Params.reference 0#4 1048 true awaiting0))

/-- Both instances have a status bit set: instance 0 a capture, instance 1 a completed transmission. -/
def bothDone : State := transmitComplete 2 (after (sendOp Params.reference 1#4 47 true heard0))

/-- Instance 1 alone has a completed transmission. -/
def uniDone : State := transmitComplete 2 (after (sendOp Params.reference 1#4 47 true bound01))

/-- P2 after step 4: one channel free. -/
def oneFree : State :=
  after (bringupOp Params.reference 3#4 13#8 2#4 (after (bringupOp Params.reference 2#4 12#8 5#4
    (after (bringupOp Params.reference 1#4 5#8 6#4 bound0)))))

/-- Bits of channels with no owner: transmit on 5, receive on 6. -/
def strayBits : State := receiveComplete 6 [] (by decide) (transmitComplete 5 bound01)

/-! ### Well-formedness, decoding -/

/-- R104: a capture of 21 pairs is well formed, one of 22 is not. -/
theorem test_wellFormed_refuses_22_pairs :
    (Instr.evRx 1#4 (List.replicate 21 ⟨1333#32, false⟩)).wellFormed = true ∧
    (Instr.evRx 1#4 (List.replicate 22 ⟨1333#32, false⟩)).wellFormed = false := by decide

/-- A capture that is too long, and a capture beside a word that is no EV_RX, are refused by name. -/
theorem test_decode_refuses_by_name :
    decode ⟨0x91000000#32, List.replicate 22 ⟨1333#32, false⟩⟩ = .error .captureTooLong ∧
    decode ⟨0x80000000#32, [⟨1333#32, false⟩]⟩ = .error .strayCapture := by decide

theorem test_decode_nop : decode ⟨0x0#4 ++ 0#28, []⟩ = .ok .nop := by decide
/-- `BRINGUP 0, 4, DSHOT600_BIDIR`: op, m, ignored, pin, ignored, code. -/
theorem test_decode_bringup :
    decode ⟨0x1#4 ++ 0#4 ++ 0#8 ++ 4#8 ++ 0#4 ++ 6#4, []⟩ = .ok (.bringup 0#4 4#8 6#4) := by decide
/-- `THROTTLE 0, 1000, TLM`: op, m, reserved, flag, argument. -/
theorem test_decode_throttle :
    decode ⟨0x2#4 ++ 0#4 ++ 0#7 ++ 1#1 ++ 1000#16, []⟩ = .ok (.throttle 0#4 true 1000#16) := by decide
/-- `COMMAND 1, 47, TLM`. -/
theorem test_decode_command :
    decode ⟨0x3#4 ++ 1#4 ++ 0#7 ++ 1#1 ++ 47#16, []⟩ = .ok (.command 1#4 true 47#16) := by decide
/-- `SEND 1, 3000`. -/
theorem test_decode_send :
    decode ⟨0x4#4 ++ 1#4 ++ 0#7 ++ 0#1 ++ 3000#16, []⟩ = .ok (.send 1#4 false 3000#16) := by decide
/-- `READ 2, TLM_SLOT7`. -/
theorem test_decode_read :
    decode ⟨0x5#4 ++ 2#4 ++ 0#16 ++ 0x0F#8, []⟩ = .ok (.read 2#4 15#8) := by decide
theorem test_decode_reserved6 : decode ⟨0x6#4 ++ 0#28, []⟩ = .ok .reserved6 := by decide
theorem test_decode_reserved7 : decode ⟨0x7#4 ++ 0#28, []⟩ = .ok .reserved7 := by decide
/-- `EV_TX 0`. -/
theorem test_decode_evTx : decode ⟨0x8#4 ++ 0#4 ++ 0#24, []⟩ = .ok (.evTx 0#4) := by decide
/-- `EV_RX 1, [...]`. -/
theorem test_decode_evRx :
    decode ⟨0x9#4 ++ 1#4 ++ 0#24, cap5A3⟩ = .ok (.evRx 1#4 cap5A3) := by decide
theorem test_decode_isr : decode ⟨0xA#4 ++ 0#28, []⟩ = .ok .isr := by decide
theorem test_decode_reservedB : decode ⟨0xB#4 ++ 0#28, []⟩ = .ok .reservedB := by decide
theorem test_decode_reservedC : decode ⟨0xC#4 ++ 0#28, []⟩ = .ok .reservedC := by decide
theorem test_decode_reservedD : decode ⟨0xD#4 ++ 0#28, []⟩ = .ok .reservedD := by decide
theorem test_decode_reservedE : decode ⟨0xE#4 ++ 0#28, []⟩ = .ok .reservedE := by decide
theorem test_decode_reservedF : decode ⟨0xF#4 ++ 0#28, []⟩ = .ok .reservedF := by decide

/-- Section 2.9: reserved bits are ignored. -/
theorem test_decode_ignores_reserved :
    decode ⟨0x40FF0416#32, []⟩ = decode ⟨0x40010416#32, []⟩ ∧ decode ⟨0x40FE0416#32, []⟩ = decode ⟨0x40000416#32, []⟩ ∧
    decode ⟨0x50000104#32, []⟩ = .ok (.read 0#4 4#8) := by decide

/-- `STOP 2` and `ZERO` (R121) are the words of section 2.9 and P6. -/
theorem test_pseudo_operations :
    (encode (stopOp 2#4 false)).word = 0x32000000#32 ∧ (encode (zeroOp 1#4 false)).word = 0x21000000#32 := by decide

/-! ### The pure functions -/

/-- Section 2.1. -/
theorem test_minInterval :
    minInterval Params.reference 2#3 = 26600 ∧ minInterval Params.reference 0#3 = 106600 ∧
    minInterval Params.reference 7#3 = 13400 := by decide

/-- Section 2.2: the rows 1046 and 65535. -/
theorem test_frame :
    frame 1046 true false = 0x82D7#16 ∧ frame 1046 true true = 0x82D8#16 ∧
    frame 65535 true false = 0xFFFF#16 ∧ frame 65535 true true = 0xFFF0#16 := by decide

/-- Section 2.3, the third row. -/
theorem test_train :
    encodeTrain Params.reference 1048 true 6#3 true =
      [0x80210064#32, 0x80530032#32, 0x80530032#32, 0x80530032#32, 0x80530032#32, 0x80530032#32, 0x80210064#32, 0x80210064#32,
        0x80530032#32, 0x80530032#32, 0x80530032#32, 0x80210064#32, 0x80530032#32, 0x80210064#32, 0x80530032#32,
        0x80000064#32] := by decide

/-- Section 2.3: the first row lasts 2045 ticks on the line. -/
theorem test_playedTicks : playedTicks (encodeTrain Params.reference 0 false 2#3 false) = 2045 := by decide

/-- Section 2.4, `5A3` stage by stage. -/
theorem test_decode_stages :
    padRaw (accumulate 1333 cap5A3 0 0).1 (accumulate 1333 cap5A3 0 0).2 = 0x0CCC5D#21 ∧
    unshift 0x0CCC5D#21 = 0xAAA73#20 ∧ remap 0xAAA73#20 = some 0x5A33#16 ∧ decodeCapture cap5A3 1333 = .ok 0x5A3#12 := by decide

/-- Section 2.5: K1, K2, K4, K6, K7, K9. -/
theorem test_decode_corners :
    decodeCapture [] 1333 = .noEdge ∧
    decodeCapture [⟨1333#32, true⟩, ⟨1333#32, false⟩] 1333 = .noEdge ∧
    decodeCapture [⟨27993#32, false⟩] 1333 = .badGcr ∧
    decodeCapture [⟨1333#32, false⟩, ⟨0#32, true⟩] 1333 = .badGcr ∧
    decodeCapture capK7 1333 = .badCsum ∧
    decodeCapture (⟨400#32, false⟩ :: cap5A3.tail) 1333 = .badGcr := by decide

/-- Section 2.5: the tie at P = 1333 and P = 1000. -/
theorem test_runLength :
    runLength 1333 666 = 0 ∧ runLength 1333 667 = 1 ∧ runLength 1000 499 = 0 ∧ runLength 1000 500 = 1 ∧
    runLength 1000 2500 = 3 := by decide

/-- Section 2.6. -/
theorem test_classify :
    classify 0x5A3#12 = .erpm 1676#16 ∧ classify 0xFFE#12 = .erpm 65280#16 ∧ classify 0xFFF#12 = .erpmStopped ∧
    classify 0xE19#12 = .slot 7 0x19#8 := by decide

/-- Section 2.4: the reference reply encoder spells `2FF` at P = 2667 as listed. -/
theorem test_reply :
    reply 0x2FF#12 2667 =
      [⟨2667#32, false⟩, ⟨8001#32, true⟩, ⟨8001#32, false⟩, ⟨2667#32, true⟩, ⟨2667#32, false⟩, ⟨2667#32, true⟩, ⟨5334#32, false⟩,
        ⟨2667#32, true⟩, ⟨2667#32, false⟩, ⟨2667#32, true⟩, ⟨5334#32, false⟩, ⟨2667#32, true⟩, ⟨5334#32, false⟩,
        ⟨0#32, true⟩] := by decide

/-! ### Operations, events and the handler -/

/-- P1 step 1. -/
theorem test_bringup_bidirectional :
    statusWord (bound0.motor 0) = 0x04061003#32 ∧ bound0.trace = [.cfgTx 0 4#8, .cfgRx 1 4#8] ∧
    bound0.responses = [1#32] := by decide

/-- P2 step 5: two channels needed, one free. -/
theorem test_bringup_all_or_nothing :
    (after (bringupOp Params.reference 4#4 14#8 6#4 oneFree)).pool = oneFree.pool ∧
    (after (bringupOp Params.reference 4#4 14#8 6#4 oneFree)).responses = oneFree.responses ++ [0#32] := by decide

/-- R9, D5: `N_CH` decides which indices are instances and how many channels there are: one channel is too few for a bidirectional
class, and of fifteen slots 14 is the last. -/
theorem test_other_pool_sizes :
    (after (execAt { Params.reference with nCh := 1 } (.bringup 0#4 4#8 6#4) State.reset)).responses = [0#32] ∧
    (after (execAt { Params.reference with nCh := 1 } (.bringup 0#4 4#8 2#4) State.reset)).responses = [1#32] ∧
    (after (execAt { Params.reference with nCh := 15 } (.bringup 14#4 4#8 6#4) State.reset)).responses = [1#32] ∧
    (after (execAt { Params.reference with nCh := 15 } (.bringup 15#4 4#8 6#4) State.reset)).responses = [0#32] := by decide

/-- P1 step 2, with THROTTLE's offset of 48. -/
theorem test_throttle :
    statusWord ((after (exec (.throttle 0#4 true 1000#16) bound0)).motor 0) = 0x04061007#32 ∧ throttleValue 1000#16 = 1048 ∧
    throttleValue 65535#16 = 2047 := by decide

/-- P4 steps 2 and 6, on instance 1. -/
theorem test_command :
    ((after (exec (.command 1#4 true 47#16) bound01)).motor 1).st = .transmitting ∧
    (after (exec (.command 1#4 false 48#16) bound01)).trace = bound01.trace := by decide

/-- P3 step 4: a SEND from AWAITING_REPLY takes the line back. -/
theorem test_send_after_a_missed_reply :
    statusWord ((after (exec (.send 0#4 true 1047#16) awaiting0)).motor 0) = 0x04061027#32 ∧
    (after (exec (.send 0#4 true 1047#16) awaiting0)).inFlight 0 = true := by decide

/-- R213: a SEND during a transmission is dropped. -/
theorem test_send_dropped :
    (after (exec (.send 0#4 true 500#16) sent0)).trace = sent0.trace ∧
    (after (exec (.send 0#4 true 500#16) sent0)).txBuf = sent0.txBuf := by decide

/-- P1 step 10, and the undefined selector of section 2.9. -/
theorem test_read :
    (after (exec (.read 0#4 4#8) (after (isrOp Params.reference heard0)))).responses.getLast? = some 0x04061023#32 ∧
    (after (exec (.read 0#4 6#8) heard0)).responses.getLast? = some 0#32 := by decide

/-- P4 step 9: STATUS of an unbound slot. -/
theorem test_read_unbound : (after (exec (.read 2#4 4#8) bound01)).responses.getLast? = some 0x0000FF00#32 := by decide

/-- P1 step 3. -/
theorem test_evTx : played0.txDoneBit 0 = true ∧ played0.inFlight 0 = false ∧ played0.irq Config.params = true := by decide

/-- P1 step 5. -/
theorem test_evRx :
    heard0.capLen 1 = 12 ∧ heard0.capOwner 1 = .done ∧ heard0.rxDoneBit 1 = true ∧
    heard0.rxPair 1 10 = some ⟨1333#32, false⟩ := by decide

/-- P1 step 4. -/
theorem test_isr_turns_the_line :
    statusWord (awaiting0.motor 0) = 0x0406103B#32 ∧ awaiting0.armed 1 = 1 ∧ awaiting0.capOwner 1 = .periph ∧
    awaiting0.trace = played0.trace ++ [.stClear .tx 0, .lineToRx 0, .pullUp 4#8, .rxArm 1] := by decide

/-- P1 step 6. -/
theorem test_isr_decodes_the_reply :
    ((after (isrOp Params.reference heard0)).motor 0).erpmUs = 1676#16 ∧
    ((after (isrOp Params.reference heard0)).motor 0).tlmOkCnt = 1#32 ∧
    (after (isrOp Params.reference heard0)).trace =
      heard0.trace ++ [.stClear .rx 1, .rxTake 1, .rxRelease 1, .lineToTx 0] := by decide

/-- Every row of the opcode table, taken as the first word after reset, runs. -/
theorem test_first_step_runs :
    [0x00000000, 0x10000406, 0x200103E8, 0x3101002F, 0x41000BB8, 0x5200000F, 0x60000000, 0x70000000, 0x80000000, 0x91000000,
      0xA0000000, 0xB0000000, 0xC0000000, 0xD0000000, 0xE0000000, 0xF0000000].all
        (fun w => goesOn (step (State.reset.withFetchWord 32 w))) = true := by decide

/-! ### The predicates of the statements, checked on a state -/

/-- `Inv` in a form that can be decided. -/
abbrev InvChecks (p : Params) (s : State) : Prop :=
  (∀ m, (s.motor m).bound = true → (s.motor m).bidir = classBidir (s.motor m).cls ∧ (s.motor m).txCh ≠ none ∧
    (s.motor m).rxCh.isSome = (s.motor m).bidir ∧ (s.motor m).txCh ≠ (s.motor m).rxCh) ∧
  (∀ m, (s.motor m).bound = false → s.motor m = Motor.reset) ∧
  (∀ c m, s.owner c = some m ↔ ((s.motor m).bound = true ∧ ((s.motor m).txCh = some c ∨ (s.motor m).rxCh = some c))) ∧
  (∀ c m, s.txOwner c = some m ↔ ((s.motor m).bound = true ∧ (s.motor m).txCh = some c)) ∧
  (∀ c m, s.rxOwner c = some m ↔ ((s.motor m).bound = true ∧ (s.motor m).rxCh = some c)) ∧
  (∀ c, s.txOwner c = none ∨ s.rxOwner c = none) ∧
  (∀ m, (s.motor m).bidir = false →
    (s.motor m).st ≠ .awaitingReply ∧ (s.motor m).line = .tx ∧ (s.motor m).pullup = false) ∧
  (∀ m, (s.motor m).line = .rx ↔ (s.motor m).st = .awaitingReply) ∧
  s.txBuf.wf (nSlots * p.nCh) ∧ s.rxBuf.wf (capMax * p.nCh) ∧
  (∀ c : Chan, ∀ i, i < s.capLen c → (s.rxBuf.read (rxIndex c i)).isSome = true) ∧
  ∀ c, s.capOwner c ≠ .handler

/-- `AbsentUnused` in a form that can be decided. -/
abbrev AbsentChecks (p : Params) (s : State) : Prop :=
  (∀ m : MotIdx, p.nMot ≤ m.val → s.motor m = Motor.reset) ∧
  (∀ c : Chan, p.nCh ≤ c.val → s.owner c = none ∧ s.txOwner c = none ∧ s.rxOwner c = none) ∧
  (∀ c : Chan, p.nCh ≤ c.val → s.txDoneBit c = false ∧ s.rxDoneBit c = false) ∧
  (∀ c : Chan, p.nCh ≤ c.val → s.capLen c = 0 ∧ s.capOwner c = .periph) ∧
  ∀ c : Chan, p.nCh ≤ c.val → s.inFlight c = false ∧ s.armed c = 0

theorem inv_of_checks {p : Params} {s : State} (h : InvChecks p s) (h' : AbsentChecks p s) : Inv p s := by
  obtain ⟨h1, h2, h3, h4, h5, h6, h7, h8, h9, h10, h11, h12⟩ := h
  exact ⟨fun m => ⟨fun hb => (h1 m hb).1, fun hb => (h1 m hb).2.1, fun hb => (h1 m hb).2.2.1, fun hb => (h1 m hb).2.2.2, h2 m⟩,
    ⟨h3, h4, h5, h6⟩, fun m => ⟨h7 m, h8 m⟩, ⟨h9, h10, h11, h12⟩,
    ⟨h'.1, h'.2.1, h'.2.2.1, h'.2.2.2.1, h'.2.2.2.2⟩⟩

/-- The rest of `FlowCoherent` in a form that can be decided. -/
abbrev FlowChecks (s : State) : Prop :=
  (∀ m c, (s.motor m).bound = true → (s.motor m).txCh = some c →
    ((s.motor m).st = .transmitting ↔ (s.inFlight c = true ∨ s.txDoneBit c = true))) ∧
  (∀ c, ¬ (s.inFlight c = true ∧ s.txDoneBit c = true)) ∧
  (∀ c, s.txOwner c = none → s.inFlight c = false ∧ s.txDoneBit c = false) ∧
  (∀ c, s.rxOwner c = none → s.armed c = 0 ∧ s.rxDoneBit c = false) ∧
  ∀ c, s.rxDoneBit c = true ↔ s.capOwner c = .done

theorem flow_of_checks {p : Params} {s : State} (hi : Inv p s) (h : FlowChecks s) : FlowCoherent p s :=
  ⟨hi, h.1, h.2.1, h.2.2.1, h.2.2.2.1, h.2.2.2.2⟩

theorem inv_sent0 : Inv Config.params sent0 := inv_of_checks (by decide) (by decide)
theorem inv_heard0 : Inv Config.params heard0 := inv_of_checks (by decide) (by decide)
theorem inv_bothDone : Inv Config.params bothDone := inv_of_checks (by decide) (by decide)

/-! ### Witnesses of the hypotheses of the statements -/

theorem witness_DecodeOfEncodeIsTheInstruction :
    (Instr.evRx 15#4 (List.replicate 21 ⟨1333#32, false⟩)).wellFormed = true := by decide

/-- The hypotheses of `DecodeIgnoresReservedBits`. -/
abbrev Agree (w w' : Word) : Prop :=
  (∀ i, i < 32 → 28 ≤ i → w'.getLsbD i = w.getLsbD i) ∧
  ((1 ≤ (opField w).toNat ∧ (opField w).toNat ≤ 5 ∨ (opField w).toNat = 8 ∨ (opField w).toNat = 9) →
    ∀ i, i < 28 → 24 ≤ i → w'.getLsbD i = w.getLsbD i) ∧
  ((opField w).toNat = 1 → ∀ i, i < 16 → 8 ≤ i → w'.getLsbD i = w.getLsbD i) ∧
  ((opField w).toNat = 1 → ∀ i, i < 4 → w'.getLsbD i = w.getLsbD i) ∧
  ((2 ≤ (opField w).toNat ∧ (opField w).toNat ≤ 4) → ∀ i, i < 17 → w'.getLsbD i = w.getLsbD i) ∧
  ((opField w).toNat = 5 → ∀ i, i < 8 → w'.getLsbD i = w.getLsbD i)

/-- Each shape of word, every ignored bit changed. -/
theorem witness_DecodeIgnoresReservedBits :
    Agree 0x00000000#32 0x0FFFFFFF#32 ∧ Agree 0x10000406#32 0x10FF04F6#32 ∧ Agree 0x40010416#32 0x40FF0416#32 ∧
    Agree 0x5200000F#32 0x52FFFF0F#32 ∧ Agree 0x91000000#32 0x91FFFFFF#32 ∧ Agree 0xF0000000#32 0xFFFFFFFF#32 := by
  refine ⟨?_, ?_, ?_, ?_, ?_, ?_⟩ <;> refine ⟨?_, ?_, ?_, ?_, ?_, ?_⟩ <;> decide

/-- A word at the port, and an empty port. -/
theorem witness_StepRunsTheDecodedInstruction :
    (bound0.withFetchWord 32 0x10000406).inputs = ⟨0x10000406#32, []⟩ :: [] ∧
    decode ⟨0x10000406#32, []⟩ = .ok (.bringup 0#4 4#8 6#4) ∧ (Instr.bringup 0#4 4#8 6#4).wellFormed = true ∧
    bound0.inputs = [] := by decide

theorem witness_ReservedOpcodesOnlyRespondZero :
    Instr.reservedF ∈ [Instr.reserved6, .reserved7, .reservedB, .reservedC, .reservedD, .reservedE, .reservedF] := by decide

/-- The last index that is one, the first that is none, and the bounds of the selectors. -/
theorem witness_ReadRespondsTheSelectedWord :
    (7#4).toNat = (7 : MotIdx).val ∧ (7 : MotIdx).val < Config.params.nMot ∧ Config.params.nMot ≤ (8#4).toNat ∧
    (0x08#8).toNat = 8 + (0 : Fin 8).val ∧
    (0x0F#8).toNat = 8 + (7 : Fin 8).val ∧ (0x06#8).toNat = 6 ∧ (0x07#8).toNat = 7 ∧ 16 ≤ (0x10#8).toNat := by decide

/-- The reference parameters are admissible: the hypothesis of the statements over all admissible parameters. -/
theorem witness_MinIntervalIsFrameGapAndReply : Params.reference.Admissible := Params.reference_admissible

theorem witness_ClassCodeIsNormalised : (7#4).toNat ≤ 7 ∧ 8 ≤ (8#4).toNat := by decide

theorem witness_EncodeBuildsSixteenSlots : Params.reference.Admissible ∧ 15 < 16 := ⟨Params.reference_admissible, by decide⟩

theorem witness_TrainGivesItsFrameBack : Params.reference.Admissible ∧ 2047 ≤ 2047 := ⟨Params.reference_admissible, by decide⟩

theorem witness_TrainPlaysWholeOnTheLine : Params.reference.Admissible ∧ 15 < 16 ∧ 14 < 15 :=
  ⟨Params.reference_admissible, by decide⟩

theorem witness_RunLengthRoundsToNearest : 0 < 1333 := by decide

theorem witness_RawReplyIsTheRunsThenOnes : 0 < 21 ∧ 20 < 21 := by decide

/-- K6: window 3 is invalid. -/
theorem witness_InvalidWindowIsBadGcr :
    (⟨1333#32, false⟩ : CapPair).level = false ∧ (⟨1333#32, false⟩ : CapPair).dur ≠ 0#32 ∧
    gcrRev (gcrWindow (unshift (padRaw (accumulate 1333 [⟨1333#32, false⟩, ⟨0#32, true⟩] 0 0).1
      (accumulate 1333 [⟨1333#32, false⟩, ⟨0#32, true⟩] 0 0).2)) 3) = none := by decide

/-- The windows of a capture are the codes of four nibbles. -/
abbrev Windows (cap : List CapPair) (n3 n2 n1 n0 : BitVec 4) : Prop :=
  let g := unshift (padRaw (accumulate 1333 cap 0 0).1 (accumulate 1333 cap 0 0).2)
  gcrRev (gcrWindow g 3) = some n3 ∧ gcrRev (gcrWindow g 2) = some n2 ∧
  gcrRev (gcrWindow g 1) = some n1 ∧ gcrRev (gcrWindow g 0) = some n0

/-- `5A3` and K7: the low nibble is the checksum, and is not. -/
theorem witness_ValidWindowsAreCheckedAndReturned :
    cap5A3 = ⟨1333#32, false⟩ :: cap5A3.tail ∧ capK7 = ⟨1333#32, false⟩ :: capK7.tail ∧
    Windows cap5A3 0x5#4 0xA#4 0x3#4 0x3#4 ∧ 0x3#4 = ~~~(0x5#4 ^^^ 0xA#4 ^^^ 0x3#4) ∧
    Windows capK7 0x5#4 0xA#4 0x3#4 0x2#4 ∧ 0x2#4 ≠ ~~~(0x5#4 ^^^ 0xA#4 ^^^ 0x3#4) := by decide

/-- One witness for each of the four clauses; the last is K8, every run off by at most 400 ns. -/
theorem witness_DecodeRecoversEveryReply :
    (⟨1333#32, true⟩ : CapPair).level = true ∧
    gcrRev (gcrWindow (unshift (padRaw (accumulate 1333 [⟨1333#32, false⟩, ⟨0#32, true⟩] 0 0).1
      (accumulate 1333 [⟨1333#32, false⟩, ⟨0#32, true⟩] 0 0).2)) 3) = none ∧
    (0 < 1431655765 ∧ 3 * 1431655765 < 2 ^ 32) ∧
    List.Forall₂ (fun (r : Nat × Bool) (q : CapPair) => q.level = r.2 ∧
      2 * (r.1 * 1333) < 2 * q.dur.toNat + 1333 ∧ 2 * q.dur.toNat < 2 * (r.1 * 1333) + 1333) (replyRuns 0x5A3#12)
      [⟨933#32, false⟩, ⟨3066#32, true⟩, ⟨2266#32, false⟩, ⟨3066#32, true⟩, ⟨2266#32, false⟩, ⟨3066#32, true⟩, ⟨3599#32, false⟩,
        ⟨1733#32, true⟩, ⟨933#32, false⟩, ⟨4399#32, true⟩, ⟨933#32, false⟩] := by decide

/-- The bounds of the three kinds. -/
theorem witness_ClassifySplitsOnBitEight :
    (0x100#12).getLsbD 8 = true ∧ (0x100#12 ≠ 0xFFF#12) ∧ (0xFFE#12).getLsbD 8 = true ∧ (0xFFE#12 ≠ 0xFFF#12) ∧
    (0xEFF#12).getLsbD 8 = false ∧ (0x000#12).getLsbD 8 = false := by decide

/-- Each result of DECODE, for the record of instance 0. -/
theorem witness_TelemetryUpdateFollowsTheResult :
    decodeCapture [] (Params.reference.timing (bound0.motor 0).cls).bitNs = .noEdge ∧
    decodeCapture [⟨27993#32, false⟩] (Params.reference.timing (bound0.motor 0).cls).bitNs = .badGcr ∧
    decodeCapture capK7 (Params.reference.timing (bound0.motor 0).cls).bitNs = .badCsum ∧
    decodeCapture cap5A3 (Params.reference.timing (bound0.motor 0).cls).bitNs = .ok 0x5A3#12 ∧
    decodeCapture (reply 0xFFF#12 1333) (Params.reference.timing (bound0.motor 0).cls).bitNs = .ok 0xFFF#12 ∧
    decodeCapture (reply 0x2FF#12 1333) (Params.reference.timing (bound0.motor 0).cls).bitNs = .ok 0x2FF#12 := by decide

/-- All channels free for a bidirectional class, and the last one for a unidirectional class. -/
theorem witness_BringupCommitsTheInstance :
    ((7#4).toNat = (7 : MotIdx).val ∧ (7 : MotIdx).val < Config.params.nMot ∧ (State.reset.motor 7).bound = false ∧
      (if (normClass Config.params 6#4).getLsbD 2 = true then 2 else 1) ≤
        (Finset.univ.filter fun c : Chan => c.val < Config.params.nCh ∧ State.reset.owner c = none).card) ∧
    ((7#4).toNat = (7 : MotIdx).val ∧ (7 : MotIdx).val < Config.params.nMot ∧ (oneFree.motor 7).bound = false ∧
      (if (normClass Config.params 2#4).getLsbD 2 = true then 2 else 1) ≤
        (Finset.univ.filter fun c : Chan => c.val < Config.params.nCh ∧ oneFree.owner c = none).card) := by decide

/-- Each of the three reasons; the third is P2 step 5. -/
theorem witness_BringupFailureChangesNothing :
    Config.params.nMot ≤ (8#4).toNat ∧ ((0#4).toNat = (0 : MotIdx).val ∧ (bound0.motor 0).bound = true) ∧
    (Finset.univ.filter fun c : Chan => c.val < Config.params.nCh ∧ oneFree.owner c = none).card <
      (if (normClass Config.params 6#4).getLsbD 2 = true then 2 else 1) := by decide

/-- The last channel that is free alone, and two of the free channels of a new pool. -/
theorem witness_BindAdmitsEveryFreeChoice :
    ((7 : Chan).val < Params.reference.nCh ∧ oneFree.owner 7 = none) ∧
    ((7 : Chan).val < Params.reference.nCh ∧ State.reset.owner 7 = none) ∧
    ((0 : Chan).val < Params.reference.nCh ∧ State.reset.owner 0 = none ∧ (0 : Chan) ≠ 7) := by decide

/-- From IDLE, bidirectional and unidirectional, and from AWAITING_REPLY: the hypotheses of SEND and THROTTLE. -/
theorem witness_SendTransmitsTheValue :
    ((0#4).toNat = (0 : MotIdx).val ∧ (0 : MotIdx).val < Config.params.nMot ∧ (bound01.motor 0).bound = true ∧
    (bound01.motor 0).st ≠ .transmitting ∧
      (bound01.motor 0).txCh = some 0) ∧
    ((1#4).toNat = (1 : MotIdx).val ∧ (1 : MotIdx).val < Config.params.nMot ∧ (bound01.motor 1).bound = true ∧
    (bound01.motor 1).st ≠ .transmitting ∧
      (bound01.motor 1).txCh = some 2) ∧
    ((0#4).toNat = (0 : MotIdx).val ∧ (0 : MotIdx).val < Config.params.nMot ∧ (awaiting0.motor 0).bound = true ∧
    (awaiting0.motor 0).st ≠ .transmitting ∧
      (awaiting0.motor 0).txCh = some 0) := by decide

theorem witness_ThrottleTransmitsTheOffsetValue :
    (0#4).toNat = (0 : MotIdx).val ∧ (0 : MotIdx).val < Config.params.nMot ∧ (bound01.motor 0).bound = true ∧
    (bound01.motor 0).st ≠ .transmitting ∧
      (bound01.motor 0).txCh = some 0 := by decide

/-- The last code that is one, and an idle instance. -/
theorem witness_CommandTransmitsTheCode :
    (47#16).toNat < 48 ∧ (1#4).toNat = (1 : MotIdx).val ∧ (1 : MotIdx).val < Config.params.nMot ∧ (bound01.motor 1).bound = true ∧
    (bound01.motor 1).st ≠ .transmitting ∧ (bound01.motor 1).txCh = some 2 := by decide

theorem witness_CommandOutOfRangeIsIgnored : 48 ≤ (48#16).toNat := by decide

theorem witness_SendToNoInstanceDoesNothing :
    Config.params.nMot ≤ (8#4).toNat ∧ ((2#4).toNat = (2 : MotIdx).val ∧ (bound01.motor 2).bound = false) := by decide

/-- Both policies, on a transmitting instance. -/
theorem witness_SendDuringATransmissionIsDropped :
    (0#4).toNat = (0 : MotIdx).val ∧ (0 : MotIdx).val < Config.params.nMot ∧ (sent0.motor 0).bound = true ∧
    (sent0.motor 0).st = .transmitting ∧ (0 : MotIdx).val < Params.reference.nMot ∧
    Params.reference.sendWhileTx = .drop ∧ { Params.reference with sendWhileTx := .refuse }.sendWhileTx = .refuse := by decide

theorem witness_ThrottleAndCommandAreSilentLikeSend :
    Config.params.nMot ≤ (8#4).toNat ∧ ((2#4).toNat = (2 : MotIdx).val ∧ (sent0.motor 2).bound = false) ∧
    ((0#4).toNat = (0 : MotIdx).val ∧ (sent0.motor 0).st = .transmitting) := by decide

/-- The last channel that is one, the first that is none. -/
theorem witness_TransmitEventSetsItsBit : (7#4).toNat = (7 : Chan).val ∧ (7 : Chan).val < Config.params.nCh ∧
    Config.params.nCh ≤ (8#4).toNat := by decide

theorem witness_ReceiveEventDeliversTheCapture :
    ((7#4).toNat = (7 : Chan).val ∧ (7 : Chan).val < Config.params.nCh ∧
    (List.replicate 21 (⟨1333#32, false⟩ : CapPair)).length ≤ 21) ∧ Config.params.nCh ≤ (8#4).toNat := by decide

theorem witness_HandlerRunWithoutBitsDoesNothing :
    ∀ c, c.val < Config.params.nCh → bound01.txDoneBit c = false ∧ bound01.rxDoneBit c = false := by decide

/-- A bidirectional owner, and a unidirectional one. -/
theorem witness_TransmitDoneEndsTheTransmission :
    ((0 : Chan).val < Config.params.nCh ∧ (∀ d, played0.txDoneBit d = decide (d = 0)) ∧ (∀ d, played0.rxDoneBit d = false) ∧
    played0.txOwner 0 = some 0 ∧
      (played0.motor 0).bidir = true ∧ (played0.motor 0).rxCh = some 1) ∧
    ((2 : Chan).val < Config.params.nCh ∧ (∀ d, uniDone.txDoneBit d = decide (d = 2)) ∧ (∀ d, uniDone.rxDoneBit d = false) ∧
    uniDone.txOwner 2 = some 1 ∧
      (uniDone.motor 1).bidir = false) := by decide

/-- From AWAITING_REPLY, and from TRANSMITTING (a late reply). -/
theorem witness_ReceiveDoneDecodesAndIdles :
    ((1 : Chan).val < Config.params.nCh ∧ (∀ d, heard0.txDoneBit d = false) ∧ (∀ d, heard0.rxDoneBit d = decide (d = 1)) ∧
    heard0.rxOwner 1 = some 0 ∧
      cap5A3.length = heard0.capLen 1 ∧ (∀ i : Fin capMax, i.val < cap5A3.length → heard0.rxPair 1 i = cap5A3[i.val]?) ∧
      (heard0.motor 0).st = .awaitingReply) ∧
    ((1 : Chan).val < Config.params.nCh ∧ (∀ d, late0.txDoneBit d = false) ∧ (∀ d, late0.rxDoneBit d = decide (d = 1)) ∧
    late0.rxOwner 1 = some 0 ∧
      cap5A3.length = late0.capLen 1 ∧ (∀ i : Fin capMax, i.val < cap5A3.length → late0.rxPair 1 i = cap5A3[i.val]?) ∧
      (late0.motor 0).st ≠ .awaitingReply) := by decide

theorem witness_UnownedBitsAreOnlyCleared :
    (∀ c, c.val < Config.params.nCh → strayBits.txDoneBit c = true → strayBits.txOwner c = none) ∧
    (∀ c, c.val < Config.params.nCh → strayBits.rxDoneBit c = true → strayBits.rxOwner c = none) ∧
    strayBits.txDoneBit 5 = true ∧ strayBits.rxDoneBit 6 = true := by decide

/-- A good state with status bits set. The same state witnesses `HeldChannelsAreCounted`. -/
theorem witness_HandlerRunServicesEveryBit :
    Inv Config.params bothDone ∧ bothDone.txDoneBit 2 = true ∧ bothDone.rxDoneBit 1 = true := ⟨inv_bothDone, by decide⟩

theorem witness_HeldChannelsAreCounted : Inv Config.params bothDone ∧ bothDone.owner 0 ≠ none := ⟨inv_bothDone, by decide⟩

theorem witness_ServiceOrderIsAnyPermutation :
    [(EvKind.rx, (1 : Chan)), (.tx, 0)].Perm [(.tx, 0), (.rx, 1)] := List.Perm.swap _ _ _

theorem witness_ServicesOfTwoInstancesCommute :
    Inv Config.params bothDone ∧ bothDone.route .tx 2 = some 1 ∧ bothDone.route .rx 1 = some 0 ∧ (1 : MotIdx) ≠ 0 :=
  ⟨inv_bothDone, by decide⟩

theorem witness_LateReplyDependsOnTheOrder :
    Inv Config.params sent0 ∧ (sent0.motor 0).bound = true ∧ (sent0.motor 0).txCh = some 0 ∧ (sent0.motor 0).rxCh = some 1 ∧
    (sent0.motor 0).st = .transmitting := ⟨inv_sent0, by decide⟩

/-- Each kind of stop: an instance with no channels, a capture of two pairs of which one has no value, a capture too long, a stray
capture. -/
theorem witness_StopsAreNamed :
    ((0#4).toNat = (0 : MotIdx).val ∧ (0 : MotIdx).val < Config.params.nMot ∧
    ((bound01.modMotor 0 fun r => { r with txCh := none }).motor 0).bound = true ∧
      ((bound01.modMotor 0 fun r => { r with txCh := none }).motor 0).st ≠ .transmitting ∧
      ((bound01.modMotor 0 fun r => { r with txCh := none }).motor 0).txCh = none ∧ (47#16).toNat < 48) ∧
    ((0 : Chan).val < Config.params.nCh ∧
    (∀ d, (played0.modMotor 0 fun r => { r with rxCh := none }).txDoneBit d = decide (d = 0)) ∧
      (∀ d, (played0.modMotor 0 fun r => { r with rxCh := none }).rxDoneBit d = false) ∧
      (played0.modMotor 0 fun r => { r with rxCh := none }).txOwner 0 = some 0 ∧
      ((played0.modMotor 0 fun r => { r with rxCh := none }).motor 0).bidir = true ∧
      ((played0.modMotor 0 fun r => { r with rxCh := none }).motor 0).rxCh = none) ∧
    ((1 : Chan).val < Config.params.nCh ∧ (∀ d, (heard0.setCapLen 1 21).txDoneBit d = false) ∧
    (∀ d, (heard0.setCapLen 1 21).rxDoneBit d = decide (d = 1)) ∧
      (heard0.setCapLen 1 21).rxOwner 1 = some 0 ∧ (20 : Fin capMax).val < (heard0.setCapLen 1 21).capLen 1 ∧
      (heard0.setCapLen 1 21).rxPair 1 20 = none) ∧
    ((7#4).toNat = (7 : Chan).val ∧ (7 : Chan).val < Config.params.nCh ∧
    21 < (List.replicate 22 (⟨1333#32, false⟩ : CapPair)).length) ∧
    (bound01.setInputs [⟨0x80000000#32, [⟨1333#32, false⟩]⟩]).inputs = [⟨0x80000000#32, [⟨1333#32, false⟩]⟩] ∧
    decode ⟨0x80000000#32, [⟨1333#32, false⟩]⟩ = .error .strayCapture := by decide

/-- The converse clauses: each kind of stop is answered by an `exec` and by a step. -/
theorem witness_StopsAreNamed_converse :
    exec (.send 0#4 true 1#16) (bound01.modMotor 0 fun r => { r with txCh := none }) = .fault (.noTxChannel 0) ∧
    exec .isr (played0.modMotor 0 fun r => { r with rxCh := none }) = .fault (.noRxChannel 0) ∧
    exec .isr (heard0.setCapLen 1 21) = .fault (.captureUnreadable 1) ∧
    exec (.evRx 7#4 (List.replicate 22 ⟨1333#32, false⟩)) bound01 = .refused .captureTooLong ∧
    step ((bound01.modMotor 0 fun r => { r with txCh := none }).withFetchWord 32 0x40000001) = .fault (.noTxChannel 0) ∧
    step (bound01.setInputs [⟨0x80000000#32, [⟨1333#32, false⟩]⟩]) = .refused (.badInput .strayCapture) :=
  ⟨rfl, rfl, rfl, rfl, rfl, rfl⟩

/-- `sent0` with EV_TX 0 at the port. -/
def sentThenEvTx : State := sent0.withFetchWord 32 0x80000000

theorem inv_sentThenEvTx : Inv Config.params sentThenEvTx := inv_of_checks (by decide) (by decide)

/-- A block of fifteen channels with BRINGUP 14 at the port. -/
def wideBringup : State := State.reset.withFetchWord 32 0x1E000406

theorem witness_EveryStepKeepsTheInvariant :
    (Inv Config.params sentThenEvTx ∧ ∃ t, step sentThenEvTx = .next t) ∧
    Inv { Params.reference with nCh := 15 } wideBringup ∧
    ∃ t, stepAt { Params.reference with nCh := 15 } wideBringup = .next t :=
  ⟨⟨inv_sentThenEvTx, _, next_after (by decide)⟩, inv_of_checks (by decide) (by decide), _, next_after (by decide)⟩

/-- `awaiting0` with a capture beside EV_RX at the port, and `sent0` with a word that carries none. -/
theorem witness_NoStepFromAGoodStateStops :
    (Inv Config.params sentThenEvTx ∧ ∀ inp rest, sentThenEvTx.inputs = inp :: rest →
      inp.capture.length ≤ 21 ∧ ((opField inp.word).toNat ≠ 9 → inp.capture = [])) ∧
    ((⟨0x91000000#32, cap5A3⟩ : Input).capture.length ≤ 21 ∧ (opField 0x91000000#32).toNat = 9) := by
  refine ⟨⟨inv_sentThenEvTx, ?_⟩, by decide⟩
  intro inp rest h
  have e : sentThenEvTx.inputs = [⟨0x80000000#32, []⟩] := by decide
  rw [e] at h
  cases h
  decide

theorem witness_IdentityNeverChanges :
    (∃ t, step sentThenEvTx = .next t) ∧ (sentThenEvTx.motor 0).bound = true := ⟨⟨_, next_after (by decide)⟩, by decide⟩

theorem witness_TableEntriesNeverChange :
    Inv Config.params sentThenEvTx ∧ (∃ t, step sentThenEvTx = .next t) ∧ sentThenEvTx.owner 0 = some 0 ∧
    sentThenEvTx.txOwner 0 = some 0 ∧
    sentThenEvTx.rxOwner 1 = some 0 := ⟨inv_sentThenEvTx, ⟨_, next_after (by decide)⟩, by decide⟩

theorem witness_OnlyTheHandlerWritesTelemetry :
    (∃ t, exec (.evTx 0#4) sent0 = .next t) ∧ Instr.evTx 0#4 ≠ .isr ∧ (sent0.motor 0).bound = true :=
  ⟨⟨_, rfl⟩, by decide⟩

/-- A bit set by each event, and a bit cleared by a run. -/
theorem witness_StatusBitsAreSetAndClearedByTheirAgents :
    (∃ t, exec (.evTx 0#4) sent0 = .next t ∧ sent0.txDoneBit 0 = false ∧ t.txDoneBit 0 = true) ∧
    (∃ t, exec (.evRx 1#4 cap5A3) awaiting0 = .next t ∧ awaiting0.rxDoneBit 1 = false ∧ t.rxDoneBit 1 = true) ∧
    (∃ t, exec .isr played0 = .next t ∧ played0.txDoneBit 0 = true ∧ t.txDoneBit 0 = false) ∧
    (∃ t, exec .isr heard0 = .next t ∧ heard0.rxDoneBit 1 = true ∧ t.rxDoneBit 1 = false) := by
  refine ⟨⟨_, next_after (by decide), by decide⟩, ⟨_, next_after (by decide), by decide⟩, ⟨_, next_after (by decide), by decide⟩, ?_⟩
  have h : ((heard0.nextChoice.clearRxDone 1).rxTake 1).readCapture 1 = some cap5A3 := by decide
  obtain ⟨t, ht, hl⟩ := rxDone_leads Config.params (m := 0) h
  refine ⟨t, ?_, by decide, ?_⟩
  · have hp : heard0.pending Config.params = [(.rx, 1)] := by decide
    have ho : heard0.nextChoice.rxOwner 1 = some 0 := by decide
    have hs : serviceOrder Config.params heard0.choices [(.rx, 1)] = [(.rx, 1)] := rfl
    simp only [exec, execIsr, isrOp, hp, hs, serviceAll, serviceBit, State.route, ho, ht]
    rfl
  · rw [hl.rxDoneBit]; rfl

theorem witness_OutputsOnlyGrow : ∃ t, step sentThenEvTx = .next t := ⟨_, next_after (by decide)⟩

theorem flow_sentThenEvTx : FlowCoherent Config.params sentThenEvTx := flow_of_checks inv_sentThenEvTx (by decide)

/-- The contract allows EV_TX while the transmission is in flight, and EV_RX while the capture is armed. -/
theorem witness_ContractKeepsTransmissionsTracked :
    FlowCoherent Config.params sentThenEvTx ∧ decode ⟨0x80000000#32, []⟩ = .ok (.evTx 0#4) ∧
    ContractAllows Config.params (.evTx 0#4) sentThenEvTx ∧
    (∃ t, step sentThenEvTx = .next t) ∧ ContractAllows Config.params (.evRx 1#4 cap5A3) awaiting0 := by
  refine ⟨flow_sentThenEvTx, by decide, ?_, ⟨_, next_after (by decide)⟩, ?_⟩
  · intro k hk
    have : k = 0 := Fin.ext (channelOf_eq_some.1 hk).1.symm
    subst this
    decide
  · intro k hk
    have : k = 1 := Fin.ext (channelOf_eq_some.1 hk).1.symm
    subst this
    decide

/-- `awaiting0` with a SEND to instance 0 at the port. -/
def awaitingThenSend : State := awaiting0.withFetchWord 32 0x40010417

/-- The step loads a train. -/
theorem witness_TrainsAreLoadedOnIdleChannelsOnly :
    FlowCoherent Config.params awaitingThenSend ∧ ∃ t l train, step awaitingThenSend = .next t ∧
    t.trace = awaitingThenSend.trace ++ l ∧
      .txLoad 0 train ∈ l := by
  have e : step awaitingThenSend = sendOp Config.params 0#4 1047 true awaiting0 := rfl
  have h := e.trans (sendOp_starts Config.params (k := 0) (c := 0) 1047 true (by decide) (by decide) (by decide) (by decide))
  have ht := startTransmission_trace Config.params 0 0 1047 true awaiting0
  rw [List.append_assoc] at ht
  exact ⟨flow_of_checks (inv_of_checks (by decide) (by decide)) (by decide), _, _,
    encodeTrain Config.params 1047 true (awaiting0.motor 0).cls (awaiting0.motor 0).bidir, h, ht,
    List.mem_append_right _ List.mem_cons_self⟩

theorem witness_EveryInstanceCanSendAgain :
    (Inv Config.params sent0 ∧ (0#4).toNat = (0 : MotIdx).val ∧ (sent0.motor 0).bound = true ∧ (sent0.motor 0).txCh = some 0 ∧
      (sent0.motor 0).st = .transmitting) ∧
    ((1#4).toNat = (1 : MotIdx).val ∧ (sent0.motor 1).bound = true ∧ (sent0.motor 1).txCh = some 2 ∧
      (sent0.motor 1).st ≠ .transmitting) := ⟨⟨inv_sent0, by decide⟩, by decide⟩

/-- The receive bit of instance 0 serviced before the transmit bit of instance 1. -/
theorem witness_HandlerRunServicesItsBitsInSomeOrder :
    [(EvKind.rx, (1 : Chan)), (.tx, 2)].Nodup ∧
    (∀ c : Chan, (EvKind.tx, c) ∈ [(EvKind.rx, (1 : Chan)), (.tx, 2)] ↔ (c.val < Params.reference.nCh ∧
    bothDone.txDoneBit c = true)) ∧
    ∀ c : Chan, (EvKind.rx, c) ∈ [(EvKind.rx, (1 : Chan)), (.tx, 2)] ↔ (c.val < Params.reference.nCh ∧
    bothDone.rxDoneBit c = true) := by
  decide

end Sys2Proof.Tests
end

section
/-!
The state after every step: which instances and table entries a step can touch, and the invariant that every step keeps
(spec/10_state.md R24 to R27, R43, R65).
-/

namespace Sys2Proof.Machine

/-! ### One service of a handler run -/

/-- Everything the service of one status bit can answer as a next state: the clear of a bit whose channel has no owner in that role
(R275), or the change of TX_DONE or RX_DONE made by the owner. -/
inductive ServiceCase (p : Params) (s : State) : EvKind × Chan → State → Prop where
  | clearsTx (c : Chan) : s.txOwner c = none → ServiceCase p s (.tx, c) (s.clearTxDone c)
  | clearsRx (c : Chan) : s.rxOwner c = none → ServiceCase p s (.rx, c) (s.clearRxDone c)
  | txUnidir (m : MotIdx) (c : Chan) (t : State) : s.txOwner c = some m → (s.motor m).bidir = false →
      (txChangeUnidir c (s.motor m)).Leads m s t → ServiceCase p s (.tx, c) t
  | txBidir (m : MotIdx) (c r : Chan) (t : State) : s.txOwner c = some m → (s.motor m).bidir = true →
      (s.motor m).rxCh = some r → (txChangeBidir m c r (s.motor m)).Leads m s t → ServiceCase p s (.tx, c) t
  | rx (m : MotIdx) (c : Chan) (cap : List CapPair) (t : State) : s.rxOwner c = some m →
      (rxChange p m c cap (s.motor m)).Leads m s t → ServiceCase p s (.rx, c) t

/-- The service of the transmit bit of an owned channel is TX_DONE of the owner. -/
theorem serviceBit_tx_owned {p : Params} {c : Chan} {s : State} {m : MotIdx} (h : s.txOwner c = some m) :
    serviceBit p (.tx, c) s = txDone m c s := by simp [serviceBit, State.route, h]

theorem serviceBit_tx_unowned {p : Params} {c : Chan} {s : State} (h : s.txOwner c = none) :
    serviceBit p (.tx, c) s = .next (s.clearTxDone c) := by simp [serviceBit, State.route, h]

/-- The service of the receive bit of an owned channel is RX_DONE of the owner. -/
theorem serviceBit_rx_owned {p : Params} {c : Chan} {s : State} {m : MotIdx} (h : s.rxOwner c = some m) :
    serviceBit p (.rx, c) s = rxDone p m c s := by simp [serviceBit, State.route, h]

theorem serviceBit_rx_unowned {p : Params} {c : Chan} {s : State} (h : s.rxOwner c = none) :
    serviceBit p (.rx, c) s = .next (s.clearRxDone c) := by simp [serviceBit, State.route, h]

/-- Every next state of a service is one of the cases. -/
theorem serviceBit_cases {p : Params} {b : EvKind × Chan} {s t : State} (h : serviceBit p b s = .next t) :
    ServiceCase p s b t := by
  obtain ⟨kind, c⟩ := b
  cases kind with
  | tx =>
    cases ho : s.txOwner c with
    | none => rw [serviceBit_tx_unowned ho] at h; cases h; exact .clearsTx c ho
    | some m =>
      rw [serviceBit_tx_owned ho] at h
      rcases txDone_cases m c s with ⟨hb, -⟩ | ⟨r, hb, hr, -⟩ | ⟨-, -, hf⟩
      · obtain ⟨u, hu, hl⟩ := txDone_unidir c hb
        rw [hu] at h; cases h
        exact .txUnidir m c _ ho hb hl
      · obtain ⟨u, hu, hl⟩ := txDone_bidir c hb hr
        rw [hu] at h; cases h
        exact .txBidir m c r _ ho hb hr hl
      · rw [hf] at h; cases h
  | rx =>
    cases ho : s.rxOwner c with
    | none => rw [serviceBit_rx_unowned ho] at h; cases h; exact .clearsRx c ho
    | some m =>
      rw [serviceBit_rx_owned ho] at h
      rcases rxDone_cases p m c s with ⟨-, hf⟩ | ⟨cap, hc, -⟩
      · rw [hf] at h; cases h
      · obtain ⟨u, hu, hl⟩ := rxDone_leads p (m := m) hc
        rw [hu] at h; cases h
        exact .rx m c cap _ ho hl

/-- A property that every service keeps, and that does not see the counter of free choices, holds after a handler run that answers a
next state. -/
theorem isrOp_keeps {p : Params} {P : State → Prop} {s t : State} (hn : P s → P s.nextChoice)
    (h : ∀ b u v, P u → ServiceCase p u b v → P v) (hs : P s) (ht : isrOp p s = .next t) : P t := by
  unfold isrOp at ht
  split at ht
  · cases ht; exact hs
  · exact serviceAll_keeps (fun b _ u v hu hv => h b u v hu (serviceBit_cases hv)) (hn hs) ht

/-! ### Identities and table entries -/

theorem SameIdentity.refl (r : Motor) : SameIdentity r r := ⟨rfl, rfl, rfl, rfl, rfl, rfl⟩

theorem SameIdentity.trans {r r' r'' : Motor} (h : SameIdentity r r') (h' : SameIdentity r' r'') : SameIdentity r r'' :=
  ⟨h'.bound.trans h.bound, h'.pin.trans h.pin, h'.cls.trans h.cls, h'.bidir.trans h.bidir, h'.txCh.trans h.txCh,
    h'.rxCh.trans h.rxCh⟩

/-- The identity of every motor and every table entry of `t` are those of `s` (R27, R43). -/
structure KeepsBinding (s t : State) : Prop where
  identity : ∀ m, SameIdentity (s.motor m) (t.motor m)
  owner : ∀ c, t.owner c = s.owner c
  txOwner : ∀ c, t.txOwner c = s.txOwner c
  rxOwner : ∀ c, t.rxOwner c = s.rxOwner c

theorem KeepsBinding.trans {s t u : State} (h : KeepsBinding s t) (h' : KeepsBinding t u) : KeepsBinding s u where
  identity m := (h.identity m).trans (h'.identity m)
  owner c := (h'.owner c).trans (h.owner c)
  txOwner c := (h'.txOwner c).trans (h.txOwner c)
  rxOwner c := (h'.rxOwner c).trans (h.rxOwner c)

/-- A step that writes no record and no table keeps the bindings. -/
theorem KeepsBinding.of_eq {s t : State} (hm : t.mot = s.mot) (ho : t.pool = s.pool) (htx : t.txMap = s.txMap)
    (hrx : t.rxMap = s.rxMap) : KeepsBinding s t where
  identity m := by simpa only [State.motor, hm] using SameIdentity.refl _
  owner c := by simp only [State.owner, ho]
  txOwner c := by simp only [State.txOwner, htx]
  rxOwner c := by simp only [State.rxOwner, hrx]

theorem KeepsBinding.refl (s : State) : KeepsBinding s s := .of_eq rfl rfl rfl rfl

/-- A step that writes one record, with the identity it had, and no table keeps the bindings. -/
theorem KeepsBinding.of_record {s t : State} {m : MotIdx} {r : Motor}
    (hm : ∀ j, t.motor j = if j = m then r else s.motor j) (hi : SameIdentity (s.motor m) r)
    (ho : t.pool = s.pool) (htx : t.txMap = s.txMap) (hrx : t.rxMap = s.rxMap) : KeepsBinding s t where
  identity j := by
    rw [hm]
    split
    · next e => exact e ▸ hi
    · exact .refl _
  owner c := by simp only [State.owner, ho]
  txOwner c := by simp only [State.txOwner, htx]
  rxOwner c := by simp only [State.rxOwner, hrx]

theorem tlmUpdate_identity (p : Params) (cap : List CapPair) (r : Motor) : SameIdentity r (tlmUpdate p cap r) :=
  (applyResult_keeps _ r).2.2.2

theorem tlmUpdate_st (p : Params) (cap : List CapPair) (r : Motor) : (tlmUpdate p cap r).st = r.st :=
  (applyResult_keeps _ r).1

theorem tlmUpdate_line (p : Params) (cap : List CapPair) (r : Motor) : (tlmUpdate p cap r).line = r.line :=
  (applyResult_keeps _ r).2.1

theorem tlmUpdate_pullup (p : Params) (cap : List CapPair) (r : Motor) : (tlmUpdate p cap r).pullup = r.pullup :=
  (applyResult_keeps _ r).2.2.1

theorem txChangeUnidir_identity (c : Chan) (r : Motor) : SameIdentity r (txChangeUnidir c r).record :=
  ⟨rfl, rfl, rfl, rfl, rfl, rfl⟩

theorem txChangeBidir_identity (m : MotIdx) (c d : Chan) (r : Motor) : SameIdentity r (txChangeBidir m c d r).record :=
  ⟨rfl, rfl, rfl, rfl, rfl, rfl⟩

theorem rxChange_identity (p : Params) (m : MotIdx) (c : Chan) (cap : List CapPair) (r : Motor) :
    SameIdentity r (rxChange p m c cap r).record := by
  have h := tlmUpdate_identity p cap r
  simp only [rxChange]
  split
  · exact ⟨h.bound, h.pin, h.cls, h.bidir, h.txCh, h.rxCh⟩
  · exact h

/-- A service change with the owner's identity keeps the bindings. -/
theorem Change.Leads.keepsBinding {e : Change} {m : MotIdx} {s t : State} (h : e.Leads m s t)
    (hi : SameIdentity (s.motor m) e.record) : KeepsBinding s t :=
  .of_record h.motor hi (by rw [h.rest]) (by rw [h.rest]) (by rw [h.rest])

/-- No service writes an identity or a table entry. -/
theorem ServiceCase.keepsBinding {p : Params} {b : EvKind × Chan} {s t : State} (h : ServiceCase p s b t) :
    KeepsBinding s t := by
  cases h with
  | clearsTx c => exact .of_eq rfl rfl rfl rfl
  | clearsRx c => exact .of_eq rfl rfl rfl rfl
  | txUnidir m c _ _ _ hl => exact hl.keepsBinding (txChangeUnidir_identity _ _)
  | txBidir m c r _ _ _ _ hl => exact hl.keepsBinding (txChangeBidir_identity _ _ _ _)
  | rx m c cap _ _ hl => exact hl.keepsBinding (rxChange_identity _ _ _ _ _)

theorem isrOp_keepsBinding {p : Params} {s t : State} (h : isrOp p s = .next t) : KeepsBinding s t :=
  isrOp_keeps (P := KeepsBinding s) (fun hs => hs.trans (.of_eq rfl rfl rfl rfl))
    (fun _ _ _ hu hc => hu.trans hc.keepsBinding) (.refl s) h

theorem startTransmission_keepsBinding (p : Params) (m : MotIdx) (c : Chan) (a : Nat) (tlm : Bool) (s : State) :
    KeepsBinding s (startTransmission p m c a tlm s) := by
  obtain ⟨hpool, htx, hrx, -⟩ := startTransmission_rest p m c a tlm s
  exact .of_record (startTransmission_motor p m c a tlm s) ⟨rfl, rfl, rfl, rfl, rfl, rfl⟩ hpool htx hrx

/-- What BRINGUP knows of the receive channel it commits, without the case of the direction. -/
theorem receive_channel_of_commit {p : Params} {s : State} {bidir : Bool} {tx : Chan} {rx : Option Chan}
    (huni : bidir = false → rx = none)
    (hbi : bidir = true → ∃ r, rx = some r ∧ r.val < p.nCh ∧ s.owner r = none ∧ r ≠ tx) :
    rx.isSome = bidir ∧ ∀ r, rx = some r → r.val < p.nCh ∧ s.owner r = none ∧ r ≠ tx := by
  cases bidir with
  | false => simp [huni rfl]
  | true =>
    obtain ⟨r, rfl, hr⟩ := hbi rfl
    exact ⟨rfl, fun r' e => Option.some.inj e ▸ hr⟩

/-- `t` is `s` after a bring-up that commits an unbound slot to free channels. -/
inductive CommitCase (s : State) : State → Prop where
  | commit (k : MotIdx) (pin : Pin) (cls : SpeedClass) (tx : Chan) (rx : Option Chan) :
      (s.motor k).bound = false → s.owner tx = none → (∀ r, rx = some r → s.owner r = none ∧ r ≠ tx) →
      CommitCase s (((s.commit k pin cls tx rx).nextChoice).respond 1#32)

/-- Only a committed bring-up writes an identity or a table entry. -/
theorem ExecCase.keepsBinding_or_commits {p : Params} {s : State} {i : Instr} {t : State} (h : ExecCase p s i t) :
    KeepsBinding s t ∨ CommitCase s t := by
  cases h with
  | responds i w => exact .inl (.of_eq rfl rfl rfl rfl)
  | nothing i => exact .inl (.refl s)
  | commits m pin code k tx rx _ hb _ ho huni hbi =>
    exact .inr (.commit k pin _ tx rx hb ho fun r hr => ((receive_channel_of_commit huni hbi).2 r hr).2)
  | transmits i k c a tlm =>
    exact .inl ((startTransmission_keepsBinding p k c a tlm s).trans (.of_eq rfl rfl rfl rfl))
  | transmitted x k => exact .inl (.of_eq rfl rfl rfl rfl)
  | received x l k => exact .inl (.of_eq rfl rfl rfl rfl)
  | handled t h => exact .inl (isrOp_keepsBinding h)

/-- Only a step that commits a bring-up writes an identity or a table entry. -/
theorem step_keepsBinding_or_commits {s t : State} (h : step s = .next t) :
    KeepsBinding s t ∨ ∃ rest, CommitCase (s.setInputs rest) t := by
  rcases step_cases h with ⟨-, rfl⟩ | ⟨inp, rest, i, -, -, hx⟩
  · exact .inl (.refl _)
  · rcases (exec_cases hx).keepsBinding_or_commits with hk | hc
    · exact .inl (KeepsBinding.trans (t := s.setInputs rest) (.of_eq rfl rfl rfl rfl) hk)
    · exact .inr ⟨rest, hc⟩

/-- Settles O52: a step keeps the bindings or commits an unbound slot, which is not the bound motor. -/
theorem identityNeverChanges : Obligations.IdentityNeverChanges := by
  intro s t m h hm
  rcases step_keepsBinding_or_commits h with hk | ⟨rest, ⟨k, pin, cls, tx, rx, hb, -, hrx⟩⟩
  · exact hk.identity m
  · have hne : m ≠ k := by
      rintro rfl
      exact absurd (hm.symm.trans hb) (by decide)
    obtain ⟨hmot, -⟩ := commit_effect (s.setInputs rest) k pin cls tx rx fun r hr => (hrx r hr).2
    simpa [hmot, hne] using SameIdentity.refl _

/-- In a good state a channel that is free in the pool is in neither map. -/
theorem TablesCoherent.maps_none {s : State} (h : TablesCoherent s) {c : Chan} (hc : s.owner c = none) :
    s.txOwner c = none ∧ s.rxOwner c = none := by
  constructor
  · refine Option.eq_none_iff_forall_ne_some.2 fun m hm => ?_
    obtain ⟨hb, ht⟩ := (h.txMap c m).1 hm
    exact absurd (hc.symm.trans ((h.pool c m).2 ⟨hb, .inl ht⟩)) (by simp)
  · refine Option.eq_none_iff_forall_ne_some.2 fun m hm => ?_
    obtain ⟨hb, hr⟩ := (h.rxMap c m).1 hm
    exact absurd (hc.symm.trans ((h.pool c m).2 ⟨hb, .inr hr⟩)) (by simp)

/-- Settles O53: a step keeps the tables or commits channels that are free, so in neither map of a good state. -/
theorem tableEntriesNeverChange : Obligations.TableEntriesNeverChange := by
  intro s t c m hi h
  rcases step_keepsBinding_or_commits h with hk | ⟨rest, ⟨k, pin, cls, tx, rx, -, hfree, hrx⟩⟩
  · exact ⟨(hk.owner c).trans, (hk.txOwner c).trans, (hk.rxOwner c).trans⟩
  · obtain ⟨-, howner, htxOwner, hrxOwner, -⟩ := commit_effect (s.setInputs rest) k pin cls tx rx fun r hr => (hrx r hr).2
    have apart : s.owner c ≠ none → c ≠ tx ∧ rx ≠ some c := fun hd => ⟨fun e => hd (e ▸ hfree), fun e => hd (hrx c e).1⟩
    refine ⟨fun ho => ?_, fun ho => ?_, fun ho => ?_⟩
    · obtain ⟨h1, h2⟩ := apart (by simp [ho])
      simp [howner, h1, h2, ho]
    · obtain ⟨h1, -⟩ := apart fun e => by simp [(hi.tables.maps_none e).1] at ho
      simp [htxOwner, h1, ho]
    · obtain ⟨-, h2⟩ := apart fun e => by simp [(hi.tables.maps_none e).2] at ho
      simp [hrxOwner, h2, ho]

end Sys2Proof.Machine
end

section
/-!
The invariant `Inv` holds after reset, and every step at any parameters keeps it (spec/10_state.md R24 to R26, R43, R53,
spec/20_memory.md R65, spec/44_half_duplex.md R225).
-/

namespace Sys2Proof.Machine

/-! ### The state after reset -/

@[simp] theorem State.reset_motor (m : MotIdx) : State.reset.motor m = Motor.reset := by simp [State.reset, State.motor]
@[simp] theorem State.reset_owner (c : Chan) : State.reset.owner c = none := by simp [State.reset, State.owner]
@[simp] theorem State.reset_txOwner (c : Chan) : State.reset.txOwner c = none := by simp [State.reset, State.txOwner]
@[simp] theorem State.reset_rxOwner (c : Chan) : State.reset.rxOwner c = none := by simp [State.reset, State.rxOwner]
@[simp] theorem State.reset_txDoneBit (c : Chan) : State.reset.txDoneBit c = false := by simp [State.reset, State.txDoneBit]
@[simp] theorem State.reset_rxDoneBit (c : Chan) : State.reset.rxDoneBit c = false := by simp [State.reset, State.rxDoneBit]
@[simp] theorem State.reset_capLen (c : Chan) : State.reset.capLen c = 0 := by simp [State.reset, State.capLen]
@[simp] theorem State.reset_capOwner (c : Chan) : State.reset.capOwner c = .periph := by simp [State.reset, State.capOwner]
@[simp] theorem State.reset_inFlight (c : Chan) : State.reset.inFlight c = false := by simp [State.reset, State.inFlight]
@[simp] theorem State.reset_armed (c : Chan) : State.reset.armed c = 0 := by simp [State.reset, State.armed]

@[simp] theorem Motor.reset_bound : Motor.reset.bound = false := rfl
@[simp] theorem Motor.reset_line : Motor.reset.line = .tx := rfl
@[simp] theorem Motor.reset_st : Motor.reset.st = .idle := rfl
@[simp] theorem Motor.reset_pullup : Motor.reset.pullup = false := rfl

/-- Settles O1: each field of R53's table, by the lemma about it. -/
theorem resetPutsEveryFieldAtItsValue : Obligations.ResetPutsEveryFieldAtItsValue := by
  refine ⟨fun m => State.reset_motor m, fun c => ?_, rfl⟩
  simp

/-- The reset record is a coherent unbound one. -/
theorem MotorCoherent.of_reset : MotorCoherent Motor.reset where
  direction h := absurd h (by simp)
  transmit h := absurd h (by simp)
  receive h := absurd h (by simp)
  distinct h := absurd h (by simp)
  unbound _ := rfl

theorem LineCoherent.of_reset : LineCoherent Motor.reset where
  unidirectional _ := by simp
  listening := by simp

/-- The invariant holds after reset, at any parameters. -/
theorem Inv.of_reset (p : Params) : Inv p State.reset where
  motors m := by simpa using MotorCoherent.of_reset
  lines m := by simpa using LineCoherent.of_reset
  tables := { pool := by simp, txMap := by simp, rxMap := by simp, oneRole := by simp }
  buffers :=
    { txForm := (State.reset_wf _ 0).1, rxForm := (State.reset_wf 0 _).2, written := by simp, released := by simp }
  absent := { motors := by simp, tables := by simp, bits := by simp, captures := by simp, hidden := by simp }

/-- Settles O49: after reset nothing is bound, in flight, armed or set. -/
theorem resetIsGood : Obligations.ResetIsGood := by
  refine ⟨.of_reset _, ?_⟩
  exact { inv := .of_reset _, transmitting := by simp, once := by simp, txOwned := by simp, rxOwned := by simp, rxDone := by simp }

/-! ### The invariant, part by part -/

/-- A channel that no part of the block uses: no status bit, no capture, nothing in flight or armed. -/
structure ChannelUnused (s : State) (c : Chan) : Prop where
  txDoneBit : s.txDoneBit c = false
  rxDoneBit : s.rxDoneBit c = false
  capLen : s.capLen c = 0
  capOwner : s.capOwner c = .periph
  inFlight : s.inFlight c = false
  armed : s.armed c = 0

/-- The channels at `N_CH` and above are unused. -/
theorem AbsentUnused.channel {p : Params} {s : State} (h : AbsentUnused p s) {c : Chan} (hc : p.nCh ≤ c.val) :
    ChannelUnused s c where
  txDoneBit := (h.bits c hc).1
  rxDoneBit := (h.bits c hc).2
  capLen := (h.captures c hc).1
  capOwner := (h.captures c hc).2
  inFlight := (h.hidden c hc).1
  armed := (h.hidden c hc).2

/-- A record with the identity of a coherent bound record is coherent. -/
theorem MotorCoherent.of_sameIdentity {r r' : Motor} (h : MotorCoherent r) (hb : r.bound = true) (hi : SameIdentity r r') :
    MotorCoherent r' where
  direction _ := by rw [hi.bidir, hi.cls]; exact h.direction hb
  transmit _ := by rw [hi.txCh]; exact h.transmit hb
  receive _ := by rw [hi.rxCh, hi.bidir]; exact h.receive hb
  distinct _ := by rw [hi.txCh, hi.rxCh]; exact h.distinct hb
  unbound hu := absurd ((hi.bound.trans hb).symm.trans hu) (by decide)

/-- The tables stay coherent where no table entry and no identity changes. -/
theorem TablesCoherent.of_keepsBinding {s t : State} (h : TablesCoherent s) (hk : KeepsBinding s t) : TablesCoherent t where
  pool c m := by rw [hk.owner, (hk.identity m).bound, (hk.identity m).txCh, (hk.identity m).rxCh]; exact h.pool c m
  txMap c m := by rw [hk.txOwner, (hk.identity m).bound, (hk.identity m).txCh]; exact h.txMap c m
  rxMap c m := by rw [hk.rxOwner, (hk.identity m).bound, (hk.identity m).rxCh]; exact h.rxMap c m
  oneRole c := by rw [hk.txOwner, hk.rxOwner]; exact h.oneRole c

/-- The invariant is kept where the bindings are, where only records of bound instances change, and where the buffers stay coherent and
the absent channels unused. -/
theorem Inv.of_keepsBinding {p : Params} {s t : State} (h : Inv p s) (hk : KeepsBinding s t)
    (hm : ∀ m, t.motor m = s.motor m ∨ ((s.motor m).bound = true ∧ LineCoherent (t.motor m)))
    (hbuf : BuffersCoherent p t) (hch : ∀ c : Chan, p.nCh ≤ c.val → ChannelUnused t c) : Inv p t where
  motors m := by
    rcases hm m with e | ⟨hb, -⟩
    · rw [e]; exact h.motors m
    · exact (h.motors m).of_sameIdentity hb (hk.identity m)
  tables := h.tables.of_keepsBinding hk
  lines m := by
    rcases hm m with e | ⟨-, hl⟩
    · rw [e]; exact h.lines m
    · exact hl
  buffers := hbuf
  absent :=
    { motors := fun m hp => by
        have hr := h.absent.motors m hp
        rcases hm m with e | ⟨hb, -⟩
        · rw [e, hr]
        · rw [hr] at hb; exact absurd hb (by simp)
      tables := fun c hc => by rw [hk.owner, hk.txOwner, hk.rxOwner]; exact h.absent.tables c hc
      bits := fun c hc => ⟨(hch c hc).txDoneBit, (hch c hc).rxDoneBit⟩
      captures := fun c hc => ⟨(hch c hc).capLen, (hch c hc).capOwner⟩
      hidden := fun c hc => ⟨(hch c hc).inFlight, (hch c hc).armed⟩ }

/-- The invariant does not see the trace, the ports and the counter of free choices. -/
theorem Inv.of_outputs {p : Params} {s t : State} (h : Inv p s)
    (e : t = { s with trace := t.trace, inputs := t.inputs, responses := t.responses, choices := t.choices }) : Inv p t := by
  rw [e]
  exact
    { motors := h.motors
      tables := ⟨h.tables.pool, h.tables.txMap, h.tables.rxMap, h.tables.oneRole⟩
      lines := h.lines
      buffers := ⟨h.buffers.txForm, h.buffers.rxForm, h.buffers.written, h.buffers.released⟩
      absent := ⟨h.absent.motors, h.absent.tables, h.absent.bits, h.absent.captures, h.absent.hidden⟩ }

/-- In a good state the owner of a transmit channel is bound. -/
theorem Inv.bound_of_txOwner {p : Params} {s : State} (h : Inv p s) {c : Chan} {m : MotIdx} (ho : s.txOwner c = some m) :
    (s.motor m).bound = true := ((h.tables.txMap c m).1 ho).1

/-- In a good state the owner of a receive channel is bound. -/
theorem Inv.bound_of_rxOwner {p : Params} {s : State} (h : Inv p s) {c : Chan} {m : MotIdx} (ho : s.rxOwner c = some m) :
    (s.motor m).bound = true := ((h.tables.rxMap c m).1 ho).1

/-- In a good state an owned channel is one of the pool. -/
theorem Inv.lt_of_owner {p : Params} {s : State} (h : Inv p s) {c : Chan} {m : MotIdx} (ho : s.owner c = some m) :
    c.val < p.nCh := by
  by_contra hc
  exact absurd ((h.absent.tables c (by omega)).1.symm.trans ho) (by simp)

/-- In a good state the transmit channel of a bound motor is one of the pool. -/
theorem Inv.txCh_lt {p : Params} {s : State} (h : Inv p s) {m : MotIdx} {c : Chan} (hb : (s.motor m).bound = true)
    (hc : (s.motor m).txCh = some c) : c.val < p.nCh := h.lt_of_owner ((h.tables.pool c m).2 ⟨hb, .inl hc⟩)

/-- In a good state the receive channel of a bound motor is one of the pool. -/
theorem Inv.rxCh_lt {p : Params} {s : State} (h : Inv p s) {m : MotIdx} {c : Chan} (hb : (s.motor m).bound = true)
    (hc : (s.motor m).rxCh = some c) : c.val < p.nCh := h.lt_of_owner ((h.tables.pool c m).2 ⟨hb, .inr hc⟩)

/-! ### The services keep the invariant -/

theorem txChangeUnidir_line {r : Motor} (c : Chan) (h : LineCoherent r) (hb : r.bidir = false) :
    LineCoherent (txChangeUnidir c r).record := by
  obtain ⟨-, hline, hpull⟩ := h.unidirectional hb
  exact ⟨fun _ => by simp [txChangeUnidir, hline, hpull], by simp [txChangeUnidir, hline]⟩

theorem txChangeBidir_line {r : Motor} (m : MotIdx) (c d : Chan) (hb : r.bidir = true) :
    LineCoherent (txChangeBidir m c d r).record :=
  ⟨fun h => absurd (hb.symm.trans h) (by decide), by simp [txChangeBidir]⟩

theorem rxChange_line {r : Motor} (p : Params) (m : MotIdx) (c : Chan) (cap : List CapPair) (h : LineCoherent r) :
    LineCoherent (rxChange p m c cap r).record := by
  have hbidir := (tlmUpdate_identity p cap r).bidir
  simp only [rxChange]
  split
  · next hst =>
    refine ⟨fun hb => ?_, by simp⟩
    exact absurd hst (h.unidirectional (hbidir.symm.trans hb)).1
  · refine ⟨fun hb => ?_, ?_⟩
    · rw [tlmUpdate_st, tlmUpdate_line, tlmUpdate_pullup]
      exact h.unidirectional (hbidir.symm.trans hb)
    · rw [tlmUpdate_st, tlmUpdate_line]
      exact h.listening

/-- A service change of a bound motor, with its identity and a coherent line, keeps the invariant. -/
theorem Change.Leads.inv {p : Params} {e : Change} {m : MotIdx} {s t : State} (h : e.Leads m s t) (hi : Inv p s)
    (hb : (s.motor m).bound = true) (hid : SameIdentity (s.motor m) e.record) (hline : LineCoherent e.record)
    (harm : ∀ d, e.arms = some d → d.val < p.nCh) : Inv p t := by
  have hlen : ∀ c, t.capLen c = s.capLen c := fun c => by rw [h.rest]; rfl
  have hfly : ∀ c, t.inFlight c = s.inFlight c := fun c => by rw [h.rest]; rfl
  have htx : t.txBuf = s.txBuf := by rw [h.rest]
  have hrx : t.rxBuf = s.rxBuf := by rw [h.rest]
  refine hi.of_keepsBinding (h.keepsBinding hid) (fun j => ?_) ⟨?_, ?_, fun c i hc => ?_, fun c => ?_⟩ fun c hc => ?_
  · rw [h.motor]
    split
    · next hj => exact .inr ⟨hj ▸ hb, hline⟩
    · exact .inl rfl
  · rw [htx]; exact hi.buffers.txForm
  · rw [hrx]; exact hi.buffers.rxForm
  · rw [hrx]; exact hi.buffers.written c i (hlen c ▸ hc)
  · rw [h.capOwner]
    split
    · decide
    · exact hi.buffers.released c
  · have hu := hi.absent.channel hc
    have hna : e.arms ≠ some c := fun ha => absurd (harm c ha) (by omega)
    exact
      { txDoneBit := by simp [h.txDoneBit, hu.txDoneBit]
        rxDoneBit := by simp [h.rxDoneBit, hu.rxDoneBit]
        capLen := by rw [hlen, hu.capLen]
        capOwner := by simp [h.capOwner, hu.capOwner]
        inFlight := by rw [hfly, hu.inFlight]
        armed := by simp [h.armed, hna, hu.armed] }

theorem Inv.clearTxDone {p : Params} {s : State} (h : Inv p s) (c : Chan) : Inv p (s.clearTxDone c) := by
  refine h.of_keepsBinding (.of_eq rfl rfl rfl rfl) (fun _ => .inl rfl)
    ⟨h.buffers.txForm, h.buffers.rxForm, h.buffers.written, h.buffers.released⟩ fun d hd => ?_
  have hu := h.absent.channel hd
  exact { hu with txDoneBit := by simp [State.clearTxDone, hu.txDoneBit] }

theorem Inv.clearRxDone {p : Params} {s : State} (h : Inv p s) (c : Chan) : Inv p (s.clearRxDone c) := by
  refine h.of_keepsBinding (.of_eq rfl rfl rfl rfl) (fun _ => .inl rfl)
    ⟨h.buffers.txForm, h.buffers.rxForm, h.buffers.written, h.buffers.released⟩ fun d hd => ?_
  have hu := h.absent.channel hd
  exact { hu with rxDoneBit := by simp [State.clearRxDone, hu.rxDoneBit] }

theorem ServiceCase.inv {p : Params} {b : EvKind × Chan} {s t : State} (h : ServiceCase p s b t) (hi : Inv p s) : Inv p t := by
  cases h with
  | clearsTx c => exact hi.clearTxDone c
  | clearsRx c => exact hi.clearRxDone c
  | txUnidir m c _ ho hb hl =>
    exact hl.inv hi (hi.bound_of_txOwner ho) (txChangeUnidir_identity c _) (txChangeUnidir_line c (hi.lines m) hb)
      fun d hd => by simp [txChangeUnidir] at hd
  | txBidir m c r _ ho hb hr hl =>
    refine hl.inv hi (hi.bound_of_txOwner ho) (txChangeBidir_identity m c r _) (txChangeBidir_line m c r hb) fun d hd => ?_
    cases hd
    exact hi.rxCh_lt (hi.bound_of_txOwner ho) hr
  | rx m c cap _ ho hl =>
    exact hl.inv hi (hi.bound_of_rxOwner ho) (rxChange_identity p m c cap _) (rxChange_line p m c cap (hi.lines m))
      fun d hd => by simp [rxChange] at hd

/-- A handler run keeps the invariant. -/
theorem isrOp_inv {p : Params} {s t : State} (hi : Inv p s) (h : isrOp p s = .next t) : Inv p t :=
  isrOp_keeps (fun hu => hu.of_outputs rfl) (fun _ _ _ hu hc => hc.inv hu) hi h

/-! ### SEND and the events keep the invariant -/

/-- The record of an motor that starts to transmit has a coherent line (R212). -/
theorem LineCoherent.of_transmitting {r : Motor} (h : LineCoherent r) :
    LineCoherent { r with st := .transmitting, line := if r.bidir then .tx else r.line } := by
  cases hd : r.bidir with
  | true => exact ⟨fun hu => absurd hu (by simp), by simp⟩
  | false =>
    obtain ⟨-, hline, hpull⟩ := h.unidirectional hd
    exact ⟨fun _ => by simp [hline, hpull], by simp [hline]⟩

/-- A started transmission of a bound motor keeps the invariant. -/
theorem startTransmission_inv {p : Params} {m : MotIdx} {c : Chan} {s : State} (a : Nat) (tlm : Bool) (hi : Inv p s)
    (hb : (s.motor m).bound = true) (hc : (s.motor m).txCh = some c) : Inv p (startTransmission p m c a tlm s) := by
  obtain ⟨-, -, -, htx, hrx, hrxBuf, hlen, hown, harm, -⟩ := startTransmission_rest p m c a tlm s
  have hpool := hi.txCh_lt hb hc
  have hcapLen : ∀ d, (startTransmission p m c a tlm s).capLen d = s.capLen d := fun d => by simp only [State.capLen, hlen]
  have hcapOwner : ∀ d, (startTransmission p m c a tlm s).capOwner d = s.capOwner d := fun d => by
    simp only [State.capOwner, hown]
  refine hi.of_keepsBinding (startTransmission_keepsBinding p m c a tlm s) (fun j => ?_)
    ⟨?_, ?_, fun d i hd => ?_, fun d => ?_⟩ fun d hd => ?_
  · rw [startTransmission_motor]
    split
    · next hj => subst hj; exact .inr ⟨hb, (hi.lines j).of_transmitting⟩
    · exact .inl rfl
  · rw [startTransmission_txBuf, ← State.storeTx_txBuf]
    exact State.storeTx_wf hi.buffers.txForm hpool (encodeTrain_length _ _ _ _ _).le
  · rw [hrxBuf]; exact hi.buffers.rxForm
  · rw [hrxBuf]; exact hi.buffers.written d i (hcapLen d ▸ hd)
  · rw [hcapOwner]; exact hi.buffers.released d
  · have hu := hi.absent.channel hd
    have hne : d ≠ c := by rintro rfl; omega
    exact
      { txDoneBit := by simpa only [State.txDoneBit, htx] using hu.txDoneBit
        rxDoneBit := by simpa only [State.rxDoneBit, hrx] using hu.rxDoneBit
        capLen := by rw [hcapLen, hu.capLen]
        capOwner := by rw [hcapOwner, hu.capOwner]
        inFlight := by rw [startTransmission_inFlight, if_neg hne, hu.inFlight]
        armed := by simpa only [State.armed, harm] using hu.armed }

/-- A transmit-complete event on a channel of the pool keeps the invariant. -/
theorem transmitComplete_inv {p : Params} {c : Chan} {s : State} (hi : Inv p s) (hc : c.val < p.nCh) :
    Inv p (transmitComplete c s) := by
  refine hi.of_keepsBinding (.of_eq rfl rfl rfl rfl) (fun _ => .inl rfl)
    ⟨hi.buffers.txForm, hi.buffers.rxForm, hi.buffers.written, hi.buffers.released⟩ fun d hd => ?_
  have hu := hi.absent.channel hd
  have hne : d ≠ c := by rintro rfl; omega
  exact
    { hu with
      txDoneBit := by simp [transmitComplete, hne, hu.txDoneBit]
      inFlight := by simp [transmitComplete, hne, hu.inFlight] }

/-- A capture length is at most 21. -/
theorem State.capLen_le (s : State) (c : Chan) : s.capLen c ≤ capMax := Nat.lt_succ_iff.1 (s.rxLen[c]).isLt

@[simp] theorem receiveComplete_capLen (c : Chan) (l : List CapPair) (h : l.length < capMax + 1) (s : State) (d : Chan) :
    (receiveComplete c l h s).capLen d = if d = c then l.length else s.capLen d := by
  simp only [receiveComplete, State.setArmed_capLen, State.setRxDoneBit_capLen, State.setCapOwner_capLen, State.setCapLen_capLen,
    State.storeRx_capLen]

/-- A receive-complete event on a channel of the pool keeps the invariant: each pair below the new length was stored. -/
theorem receiveComplete_inv {p : Params} {c : Chan} {l : List CapPair} {s : State} (hl : l.length < capMax + 1) (hi : Inv p s)
    (hc : c.val < p.nCh) : Inv p (receiveComplete c l hl s) := by
  have hle : l.length ≤ capMax := Nat.lt_succ_iff.1 hl
  have hbuf : (receiveComplete c l hl s).rxBuf = (s.storeRx (rxIndex c 0) l).rxBuf := rfl
  refine hi.of_keepsBinding (.of_eq rfl rfl rfl rfl) (fun _ => .inl rfl)
    ⟨hi.buffers.txForm, ?_, fun d i hd => ?_, fun d => ?_⟩ fun d hd => ?_
  · rw [hbuf]; exact State.storeRx_wf hi.buffers.rxForm hc hle
  · have hmax : i < capMax := hd.trans_le (State.capLen_le _ _)
    rw [receiveComplete_capLen] at hd
    rw [hbuf, State.storeRx_read s c d l hle i hmax]
    by_cases he : d = c
    · rw [if_pos he] at hd
      simp [he, hd]
    · rw [if_neg he] at hd
      simp [he, hi.buffers.written d i hd]
  · by_cases he : d = c
    · simp [receiveComplete, he]
    · simpa [receiveComplete, he] using hi.buffers.released d
  · have hu := hi.absent.channel hd
    have hne : d ≠ c := by rintro rfl; omega
    exact
      { txDoneBit := hu.txDoneBit
        rxDoneBit := by simp [receiveComplete, hne, hu.rxDoneBit]
        capLen := by rw [receiveComplete_capLen, if_neg hne, hu.capLen]
        capOwner := by simp [receiveComplete, hne, hu.capOwner]
        inFlight := hu.inFlight
        armed := by simp [receiveComplete, hne, hu.armed] }

/-! ### BRINGUP keeps the invariant -/

/-- The record of a bring-up is coherent when the receive channel is there exactly for a bidirectional class. -/
theorem freshMotor_coherent (pin : Pin) (cls : SpeedClass) {tx : Chan} {rx : Option Chan} (hd : rx.isSome = classBidir cls)
    (hne : rx ≠ some tx) : MotorCoherent (freshMotor pin cls tx rx) where
  direction _ := rfl
  transmit _ := by simp [freshMotor]
  receive _ := hd
  distinct _ := hne.symm
  unbound h := by simp [freshMotor] at h

theorem freshMotor_line (pin : Pin) (cls : SpeedClass) (tx : Chan) (rx : Option Chan) :
    LineCoherent (freshMotor pin cls tx rx) :=
  ⟨fun _ => by simp [freshMotor], by simp [freshMotor]⟩

/-- A table stays coherent when an unbound slot `k` is bound and its new channels `Q`, free before, are entered: `R r c` says that the
record `r` names the channel `c` in the table's role. -/
theorem table_coherent_of_commit {s t : State} {k : MotIdx} {r : Motor} {entry entry' : Chan → Option MotIdx}
    {R : Motor → Chan → Prop} {Q : Chan → Prop} [DecidablePred Q]
    (hm : ∀ j, t.motor j = if j = k then r else s.motor j) (hr : r.bound = true) (hk : (s.motor k).bound = false)
    (hQ : ∀ c, R r c ↔ Q c) (hfree : ∀ c, Q c → entry c = none)
    (hold : ∀ c m, entry c = some m ↔ ((s.motor m).bound = true ∧ R (s.motor m) c))
    (hnew : ∀ c, entry' c = if Q c then some k else entry c) (c : Chan) (m : MotIdx) :
    entry' c = some m ↔ ((t.motor m).bound = true ∧ R (t.motor m) c) := by
  rw [hnew, hm]
  by_cases hmk : m = k
  · have hno : entry c ≠ some m := fun e => by
      have hb := ((hold c m).1 e).1
      rw [hmk, hk] at hb; cases hb
    by_cases hq : Q c
    · simp [hmk, hq, hr, hQ]
    · simp [hmk, hq, hQ, hmk ▸ hno]
  · rw [if_neg hmk, ← hold]
    by_cases hq : Q c
    · simp [hq, hfree c hq, Ne.symm hmk]
    · rw [if_neg hq]

/-- A commit of an unbound slot of the block to free and distinct channels of the pool keeps the invariant. -/
theorem commit_inv {p : Params} {s : State} {k : MotIdx} {tx : Chan} {rx : Option Chan} (pin : Pin) (cls : SpeedClass)
    (hi : Inv p s) (hk : k.val < p.nMot) (hb : (s.motor k).bound = false) (htx : tx.val < p.nCh) (hfree : s.owner tx = none)
    (hdir : rx.isSome = classBidir cls) (hrx : ∀ r, rx = some r → r.val < p.nCh ∧ s.owner r = none ∧ r ≠ tx) :
    Inv p (s.commit k pin cls tx rx) := by
  obtain ⟨hm, hpool, htxMap, hrxMap, -, hrest⟩ := commit_effect s k pin cls tx rx fun r hr => (hrx r hr).2.2
  have hne : rx ≠ some tx := fun e => (hrx tx e).2.2 rfl
  have hfree' : ∀ c, c = tx ∨ rx = some c → s.owner c = none := by
    rintro c (rfl | hr)
    · exact hfree
    · exact (hrx c hr).2.1
  have hlt : ∀ c, c = tx ∨ rx = some c → c.val < p.nCh := by
    rintro c (rfl | hr)
    · exact htx
    · exact (hrx c hr).1
  have hlen : ∀ c, (s.commit k pin cls tx rx).capLen c = s.capLen c := fun c => by rw [hrest]; rfl
  exact
    { motors := fun m => by
        rw [hm]
        split
        · exact freshMotor_coherent pin cls hdir hne
        · exact hi.motors m
      lines := fun m => by
        rw [hm]
        split
        · exact freshMotor_line pin cls tx rx
        · exact hi.lines m
      tables :=
        { pool := table_coherent_of_commit (R := fun r c => r.txCh = some c ∨ r.rxCh = some c) hm rfl hb
            (fun c => by simp [freshMotor, eq_comm]) hfree' hi.tables.pool hpool
          txMap := table_coherent_of_commit (R := fun r c => r.txCh = some c) hm rfl hb
            (fun c => by simp [freshMotor, eq_comm]) (fun c h => (hi.tables.maps_none (hfree' c (.inl h))).1) hi.tables.txMap htxMap
          rxMap := table_coherent_of_commit (R := fun r c => r.rxCh = some c) hm rfl hb
            (fun c => .rfl) (fun c h => (hi.tables.maps_none (hfree' c (.inr h))).2) hi.tables.rxMap hrxMap
          oneRole := fun c => by
            rw [htxMap, hrxMap]
            by_cases h1 : c = tx
            · subst h1
              simp [hne, (hi.tables.maps_none hfree).2]
            · by_cases h2 : rx = some c
              · simp [h1, (hi.tables.maps_none (hfree' c (.inr h2))).1]
              · simpa [h1, h2] using hi.tables.oneRole c }
      buffers := by
        rw [hrest]
        exact ⟨hi.buffers.txForm, hi.buffers.rxForm, hi.buffers.written, hi.buffers.released⟩
      absent :=
        { motors := fun m hp => by
            rw [hm, if_neg (by rintro rfl; omega)]
            exact hi.absent.motors m hp
          tables := fun c hc => by
            have hout : ¬ (c = tx ∨ rx = some c) := fun h => absurd (hlt c h) (by omega)
            obtain ⟨h1, h2⟩ := not_or.1 hout
            rw [hpool, htxMap, hrxMap, if_neg hout, if_neg h1, if_neg h2]
            exact hi.absent.tables c hc
          bits := by rw [hrest]; exact hi.absent.bits
          captures := by rw [hrest]; exact hi.absent.captures
          hidden := by rw [hrest]; exact hi.absent.hidden } }

/-! ### Every step keeps the invariant -/

theorem ExecCase.inv {p : Params} {s : State} {i : Instr} {t : State} (h : ExecCase p s i t) (hi : Inv p s) : Inv p t := by
  cases h with
  | responds i w => exact hi.of_outputs rfl
  | nothing i => exact hi
  | commits m pin code k tx rx hk hb htx hfree huni hbi =>
    obtain ⟨hdir, hrx⟩ := receive_channel_of_commit huni hbi
    exact (commit_inv pin (normClass p code) hi (motorOf_eq_some.1 hk).2 hb htx hfree hdir hrx).of_outputs rfl
  | transmits i k c a tlm _ _ _ hb _ hc => exact (startTransmission_inv a tlm hi hb hc).of_outputs rfl
  | transmitted x k hk => exact transmitComplete_inv hi (channelOf_eq_some.1 hk).2
  | received x l k hl hk => exact receiveComplete_inv hl hi (channelOf_eq_some.1 hk).2
  | handled t h => exact isrOp_inv hi h

/-- Every step at the parameters `p` keeps the invariant. -/
theorem stepAt_inv {p : Params} {s t : State} (hi : Inv p s) (h : stepAt p s = .next t) : Inv p t := by
  rcases stepAt_cases h with ⟨-, rfl⟩ | ⟨inp, rest, i, -, -, hx⟩
  · exact hi
  · exact (execAt_cases hx).inv (Inv.of_outputs (t := s.setInputs rest) hi rfl)

/-- Settles O50: one case analysis of a step at any parameters, each case by the lemma on its operation. -/
theorem everyStepKeepsTheInvariant : Obligations.EveryStepKeepsTheInvariant :=
  ⟨fun s _ hi h => stepAt_inv hi ((stepAt_params s).trans h), fun _ _ _ hi h => stepAt_inv hi h⟩

end Sys2Proof.Machine
end

section
/-!
Status bits, outputs, the channels held and the STATUS word (spec/10_state.md R37, R43, R44, R48, spec/43_channel_manager.md R198).
-/

namespace Sys2Proof.Machine

/-! ### Status bits -/

/-- No status bit is set in `t` that is not set in `s`. -/
structure OnlyClears (s t : State) : Prop where
  tx : ∀ c, t.txDoneBit c = true → s.txDoneBit c = true
  rx : ∀ c, t.rxDoneBit c = true → s.rxDoneBit c = true

theorem OnlyClears.refl (s : State) : OnlyClears s s := ⟨fun _ h => h, fun _ h => h⟩

theorem OnlyClears.trans {s t u : State} (h : OnlyClears s t) (h' : OnlyClears t u) : OnlyClears s u :=
  ⟨fun c hc => h.tx c (h'.tx c hc), fun c hc => h.rx c (h'.rx c hc)⟩

theorem Change.Leads.onlyClears {e : Change} {m : MotIdx} {s t : State} (h : e.Leads m s t) : OnlyClears s t := by
  refine ⟨fun c hc => ?_, fun c hc => ?_⟩
  · rw [h.txDoneBit] at hc
    split at hc
    · cases hc
    · exact hc
  · rw [h.rxDoneBit] at hc
    split at hc
    · cases hc
    · exact hc

/-- A service sets no status bit. -/
theorem ServiceCase.onlyClears {p : Params} {b : EvKind × Chan} {s t : State} (h : ServiceCase p s b t) : OnlyClears s t := by
  cases h with
  | clearsTx c => exact ⟨fun d hd => by simp [State.clearTxDone] at hd; exact hd.2, fun _ h => h⟩
  | clearsRx c => exact ⟨fun _ h => h, fun d hd => by simp [State.clearRxDone] at hd; exact hd.2⟩
  | txUnidir m c _ _ _ hl => exact hl.onlyClears
  | txBidir m c r _ _ _ _ hl => exact hl.onlyClears
  | rx m c cap _ _ hl => exact hl.onlyClears

/-- A handler run sets no status bit (R274). -/
theorem isrOp_onlyClears {p : Params} {s t : State} (h : isrOp p s = .next t) : OnlyClears s t :=
  isrOp_keeps (P := OnlyClears s) (fun _ => ⟨fun _ h => h, fun _ h => h⟩) (fun _ _ _ hu hc => hu.trans hc.onlyClears) (.refl s) h

/-- The agents of a transmit bit: EV_TX on its channel, which sets it, and the handler, which clears it; every other step leaves it
alone. -/
theorem ExecCase.txDoneBit {p : Params} {s : State} {i : Instr} {t : State} (h : ExecCase p s i t) (c : Chan) :
    t.txDoneBit c = s.txDoneBit c ∨ (t.txDoneBit c = true ∧ ∃ x, i = .evTx x ∧ x.toNat = c.val) ∨
    (i = .isr ∧ (t.txDoneBit c = true → s.txDoneBit c = true)) := by
  cases h with
  | responds i w => exact .inl rfl
  | nothing i => exact .inl rfl
  | commits m pin code k tx rx => exact .inl (by cases rx <;> rfl)
  | transmits i k d a tlm =>
    obtain ⟨-, -, -, htx, -⟩ := startTransmission_rest p k d a tlm s
    exact .inl (by rw [State.respond_txDoneBit, State.txDoneBit, htx, State.txDoneBit])
  | transmitted x k hk =>
    by_cases hc : c = k
    · exact .inr (.inl ⟨by simp [transmitComplete, hc], x, rfl, hc ▸ (channelOf_eq_some.1 hk).1⟩)
    · exact .inl (by simp [transmitComplete, hc])
  | received x l k => exact .inl rfl
  | handled t h => exact .inr (.inr ⟨rfl, (isrOp_onlyClears h).tx c⟩)

/-- The agents of a receive bit: EV_RX on its channel, which sets it, and the handler, which clears it; every other step leaves it
alone. -/
theorem ExecCase.rxDoneBit {p : Params} {s : State} {i : Instr} {t : State} (h : ExecCase p s i t) (c : Chan) :
    t.rxDoneBit c = s.rxDoneBit c ∨ (t.rxDoneBit c = true ∧ ∃ x l, i = .evRx x l ∧ x.toNat = c.val) ∨
    (i = .isr ∧ (t.rxDoneBit c = true → s.rxDoneBit c = true)) := by
  cases h with
  | responds i w => exact .inl rfl
  | nothing i => exact .inl rfl
  | commits m pin code k tx rx => exact .inl (by cases rx <;> rfl)
  | transmits i k d a tlm =>
    obtain ⟨-, -, -, -, hrx, -⟩ := startTransmission_rest p k d a tlm s
    exact .inl (by rw [State.respond_rxDoneBit, State.rxDoneBit, hrx, State.rxDoneBit])
  | transmitted x k => exact .inl rfl
  | received x l k hl hk =>
    by_cases hc : c = k
    · exact .inr (.inl ⟨by simp [receiveComplete, hc], x, l, rfl, hc ▸ (channelOf_eq_some.1 hk).1⟩)
    · exact .inl (by simp [receiveComplete, hc])
  | handled t h => exact .inr (.inr ⟨rfl, (isrOp_onlyClears h).rx c⟩)

/-- Settles O55: each clause reads off which agents a bit has. -/
theorem statusBitsAreSetAndClearedByTheirAgents : Obligations.StatusBitsAreSetAndClearedByTheirAgents := by
  intro i s t c h
  have htx := (exec_cases h).txDoneBit c
  have hrx := (exec_cases h).rxDoneBit c
  refine ⟨fun h0 h1 => ?_, fun h0 h1 => ?_, fun h1 h0 => ?_, fun h1 h0 => ?_⟩
  · rcases htx with e | ⟨-, hx⟩ | ⟨-, hi⟩
    · simp [e, h0] at h1
    · exact hx
    · simp [hi h1] at h0
  · rcases hrx with e | ⟨-, hx⟩ | ⟨-, hi⟩
    · simp [e, h0] at h1
    · exact hx
    · simp [hi h1] at h0
  · rcases htx with e | ⟨e, -⟩ | ⟨hi, -⟩
    · simp [e, h1] at h0
    · simp [e] at h0
    · exact hi
  · rcases hrx with e | ⟨e, -⟩ | ⟨hi, -⟩
    · simp [e, h1] at h0
    · simp [e] at h0
    · exact hi

/-! ### The trace and the responses -/

/-- The outputs of `t` extend those of `s`. -/
structure OutputsGrow (s t : State) : Prop where
  trace : s.trace <+: t.trace
  responses : s.responses <+: t.responses

theorem OutputsGrow.refl (s : State) : OutputsGrow s s := ⟨List.prefix_rfl, List.prefix_rfl⟩

theorem OutputsGrow.trans {s t u : State} (h : OutputsGrow s t) (h' : OutputsGrow t u) : OutputsGrow s u :=
  ⟨h.trace.trans h'.trace, h.responses.trans h'.responses⟩

theorem State.respond_outputsGrow (s : State) (w : Word) : OutputsGrow s (s.respond w) :=
  ⟨List.prefix_rfl, List.prefix_append _ _⟩

theorem Change.Leads.outputsGrow {e : Change} {m : MotIdx} {s t : State} (h : e.Leads m s t) : OutputsGrow s t :=
  ⟨by rw [h.trace]; exact List.prefix_append _ _, by rw [h.rest]⟩

theorem ServiceCase.outputsGrow {p : Params} {b : EvKind × Chan} {s t : State} (h : ServiceCase p s b t) :
    OutputsGrow s t := by
  cases h with
  | clearsTx c => exact ⟨List.prefix_append _ _, List.prefix_rfl⟩
  | clearsRx c => exact ⟨List.prefix_append _ _, List.prefix_rfl⟩
  | txUnidir m c _ _ _ hl => exact hl.outputsGrow
  | txBidir m c r _ _ _ _ hl => exact hl.outputsGrow
  | rx m c cap _ _ hl => exact hl.outputsGrow

theorem isrOp_outputsGrow {p : Params} {s t : State} (h : isrOp p s = .next t) : OutputsGrow s t :=
  isrOp_keeps (P := OutputsGrow s) (fun _ => ⟨List.prefix_rfl, List.prefix_rfl⟩)
    (fun _ _ _ hu hc => hu.trans hc.outputsGrow) (.refl s) h

theorem startTransmission_outputsGrow (p : Params) (m : MotIdx) (c : Chan) (a : Nat) (tlm : Bool) (s : State) :
    OutputsGrow s (startTransmission p m c a tlm s) := by
  obtain ⟨-, -, -, -, -, -, -, -, -, -, hresp, -⟩ := startTransmission_rest p m c a tlm s
  refine ⟨?_, by rw [hresp]⟩
  rw [startTransmission_trace, List.append_assoc]
  exact List.prefix_append _ _

theorem commit_outputsGrow (s : State) (k : MotIdx) (pin : Pin) (cls : SpeedClass) {tx : Chan} {rx : Option Chan}
    (h : ∀ r, rx = some r → r ≠ tx) : OutputsGrow s (s.commit k pin cls tx rx) := by
  obtain ⟨-, -, -, -, htrace, hrest⟩ := commit_effect s k pin cls tx rx h
  refine ⟨?_, by rw [hrest]⟩
  rw [htrace, List.append_assoc]
  exact List.prefix_append _ _

theorem ExecCase.outputsGrow {p : Params} {s : State} {i : Instr} {t : State} (h : ExecCase p s i t) : OutputsGrow s t := by
  cases h with
  | responds i w => exact s.respond_outputsGrow w
  | nothing i => exact .refl s
  | commits m pin code k tx rx _ _ _ _ huni hbi =>
    have hne : ∀ r, rx = some r → r ≠ tx := fun r hr => ((receive_channel_of_commit huni hbi).2 r hr).2.2
    obtain ⟨htrace, hresp⟩ := commit_outputsGrow s k pin (normClass p code) hne
    exact ⟨htrace, hresp.trans (List.prefix_append _ _)⟩
  | transmits i k c a tlm => exact (startTransmission_outputsGrow p k c a tlm s).trans (State.respond_outputsGrow _ _)
  | transmitted x k => exact ⟨List.prefix_rfl, List.prefix_rfl⟩
  | received x l k => exact ⟨List.prefix_rfl, List.prefix_rfl⟩
  | handled t h => exact isrOp_outputsGrow h

/-- Settles O56: no operation, event or service takes anything from the trace or the responses. -/
theorem outputsOnlyGrow : Obligations.OutputsOnlyGrow := by
  intro s t h
  rcases step_cases h with ⟨-, rfl⟩ | ⟨inp, rest, i, -, -, hx⟩
  · exact ⟨List.prefix_rfl, List.prefix_rfl⟩
  · obtain ⟨htrace, hresp⟩ := (exec_cases hx).outputsGrow
    exact ⟨htrace, hresp⟩

/-! ### The channels held -/

/-- In a good state the channels of the pool that name motor `m` are one for a unidirectional bound motor, two for a
bidirectional one and none for an unbound slot. -/
theorem Inv.card_owned {p : Params} {s : State} (h : Inv p s) (m : MotIdx) :
    (Finset.univ.filter fun c : Chan => s.owner c = some m).card =
      if (s.motor m).bound = true then (if (s.motor m).bidir = true then 2 else 1) else 0 := by
  have hcoh := h.motors m
  simp only [h.tables.pool]
  cases hb : (s.motor m).bound with
  | false => simp
  | true =>
    obtain ⟨c, hc⟩ := Option.ne_none_iff_exists'.1 (hcoh.transmit hb)
    have hrx := hcoh.receive hb
    cases hd : (s.motor m).bidir with
    | false =>
      have hr : (s.motor m).rxCh = none := Option.not_isSome_iff_eq_none.1 (by simp [hrx, hd])
      have hset : (Finset.univ.filter fun d : Chan => (s.motor m).txCh = some d ∨ (s.motor m).rxCh = some d) = {c} := by
        ext d; simp [hc, hr, eq_comm]
      simp [hset]
    | true =>
      obtain ⟨r, hr⟩ := Option.isSome_iff_exists.1 (hrx.trans hd)
      have hne : c ≠ r := fun e => hcoh.distinct hb (by rw [hc, hr, e])
      have hset : (Finset.univ.filter fun d : Chan => (s.motor m).txCh = some d ∨ (s.motor m).rxCh = some d) = {c, r} := by
        ext d; simp [hc, hr, eq_comm]
      simp [hset, Finset.card_pair hne]

/-- The channels that are not free are counted owner by owner. -/
theorem State.card_held (s : State) :
    (Finset.univ.filter fun c : Chan => s.owner c ≠ none).card =
      ∑ m : MotIdx, (Finset.univ.filter fun c : Chan => s.owner c = some m).card := by
  rw [← Finset.card_biUnion]
  · congr 1
    ext c
    simp [Option.ne_none_iff_exists']
  · intro m _ m' _ hne
    refine Finset.disjoint_filter.2 fun c _ h h' => hne ?_
    exact Option.some.inj (h.symm.trans h')

/-- Settles O30: the owned channels are counted motor by motor, and lie below `N_CH`. -/
theorem heldChannelsAreCounted : Obligations.HeldChannelsAreCounted := by
  intro p s h
  refine ⟨?_, ?_⟩
  · rw [State.card_held]
    exact Finset.sum_congr rfl fun m _ => h.card_owned m
  · calc (Finset.univ.filter fun c : Chan => s.owner c ≠ none).card
        ≤ (Finset.univ.filter fun c : Chan => c.val < p.nCh).card := by
          refine Finset.card_le_card (Finset.monotone_filter_right _ fun c _ hc => ?_)
          obtain ⟨m, hm⟩ := Option.ne_none_iff_exists'.1 hc
          exact h.lt_of_owner hm
      _ = min maxCh p.nCh := Fin.card_filter_val_lt
      _ ≤ p.nCh := min_le_right _ _

/-! ### The STATUS word -/

/-- Bit `i` of the STATUS word is a bit of the field at its place (R37). -/
theorem statusWord_getLsbD (r : Motor) (i : Nat) :
    (statusWord r).getLsbD i =
      if i < 1 then (BitVec.ofBool r.bound).getLsbD i
      else if i < 2 then (BitVec.ofBool r.bidir).getLsbD (i - 1)
      else if i < 4 then (stCode r.st).getLsbD (i - 2)
      else if i < 5 then (lineCode r.line).getLsbD (i - 4)
      else if i < 6 then (BitVec.ofBool r.pullup).getLsbD (i - 5)
      else if i < 7 then (BitVec.ofBool r.erpmStopped).getLsbD (i - 6)
      else if i < 8 then (0#1).getLsbD (i - 7)
      else if i < 12 then (channelCode r.txCh).getLsbD (i - 8)
      else if i < 16 then (channelCode r.rxCh).getLsbD (i - 12)
      else if i < 19 then r.cls.getLsbD (i - 16)
      else if i < 24 then (0#5).getLsbD (i - 19)
      else r.pin.getLsbD (i - 24) := by
  have below (a b : Nat) : (i - a < b + 1) = (i < a + b + 1) := by rw [eq_iff_iff]; omega
  simp only [statusWord, BitVec.getLsbD_append]
  simp only [Nat.sub_sub, Nat.reduceAdd, below 1 0, below 2 1, below 4 0, below 5 0, below 6 0, below 7 0, below 8 3, below 12 3,
    below 16 2, below 19 4]

/-- A piece of the STATUS word is the field whose bits stand there. -/
theorem statusWord_extract (r : Motor) {start len : Nat} {f : BitVec len}
    (h : ∀ i, i < len → (statusWord r).getLsbD (start + i) = f.getLsbD i) : (statusWord r).extractLsb' start len = f :=
  BitVec.eq_of_getLsbD_eq fun i hi => by simp only [BitVec.getLsbD_extractLsb', hi, decide_true, Bool.true_and, h i hi]

theorem channelCode_toNat (o : Option Chan) :
    (channelCode o).toNat = match o with | none => 15 | some c => c.val := by
  cases o with
  | none => rfl
  | some c =>
    have hc : c.val < 15 := c.isLt
    simp only [channelCode, BitVec.toNat_ofNat]
    omega

theorem lineCode_bit (l : LineOwner) : (lineCode l).getLsbD 0 = decide (l = .rx) := by
  cases l <;> rfl

/-- Settles O9: each field is read off bit by bit. -/
theorem statusWordHoldsItsFields : Obligations.StatusWordHoldsItsFields := by
  intro r
  have htx : (statusWord r).extractLsb' 8 4 = channelCode r.txCh :=
    statusWord_extract r fun i hi => by interval_cases i <;> rw [statusWord_getLsbD] <;> rfl
  have hrx : (statusWord r).extractLsb' 12 4 = channelCode r.rxCh :=
    statusWord_extract r fun i hi => by interval_cases i <;> rw [statusWord_getLsbD] <;> rfl
  refine ⟨?_, ?_, ?_, ?_, ?_, ?_, ?_, ?_, ?_, ?_, ?_, ?_⟩
  · rw [statusWord_getLsbD]; simp
  · rw [statusWord_getLsbD]; simp
  · exact statusWord_extract r fun i hi => by interval_cases i <;> rw [statusWord_getLsbD] <;> rfl
  · rw [statusWord_getLsbD]; exact lineCode_bit r.line
  · rw [statusWord_getLsbD]; simp
  · rw [statusWord_getLsbD]; simp
  · rw [statusWord_getLsbD]; simp
  · rw [htx]; exact channelCode_toNat r.txCh
  · rw [hrx]; exact channelCode_toNat r.rxCh
  · exact statusWord_extract r fun i hi => by interval_cases i <;> rw [statusWord_getLsbD] <;> rfl
  · exact statusWord_extract r fun i hi => by interval_cases i <;> rw [statusWord_getLsbD] <;> rfl
  · exact statusWord_extract r fun i hi => by interval_cases i <;> rw [statusWord_getLsbD] <;> rfl

end Sys2Proof.Machine
end

section
/-!
Every stop of the model and its cause (spec/10_state.md R25, R26, R46, spec/30_encoding.md R104, R119; logs 4 and 15).
-/

namespace Sys2Proof.Machine

/-! ### Decoding and the step -/

theorem decodeWord_wellFormed {w : Word} {capture : List CapPair} (h : captureFits capture = true) :
    (decodeWord w capture).wellFormed = true := by
  unfold decodeWord
  split
  case h_10 => exact h
  all_goals rfl

/-- A decoded instruction is well formed. -/
theorem decode_wellFormed {inp : Input} {i : Instr} (h : decode inp = .ok i) : i.wellFormed = true := by
  unfold decode at h
  split at h
  · split at h
    · next hc => cases h; exact decodeWord_wellFormed hc
    · cases h
  · split at h
    · cases h; exact decodeWord_wellFormed rfl
    · cases h

/-- A step with no word at the port waits. -/
theorem step_of_empty {s : State} (h : s.inputs = []) : step s = .next s := by
  simp [step, State.takeInput, h, waitForHost]

/-- A step runs the instruction of the first word. -/
theorem step_of_ok {s : State} {inp : Input} {rest : List Input} {i : Instr} (h : s.inputs = inp :: rest)
    (hd : decode inp = .ok i) : step s = exec i (s.setInputs rest) := by
  simp [step, State.takeInput, h, hd]

/-- A step refuses an input that is no word of the alphabet. -/
theorem step_of_error {s : State} {inp : Input} {rest : List Input} {e : DecodeError} (h : s.inputs = inp :: rest)
    (hd : decode inp = .error e) : step s = .refused (.badInput e) := by
  simp [step, State.takeInput, h, hd]

/-- A step that stops took a first word, which is no word of the alphabet or whose instruction stops. -/
theorem step_stops {s : State} (h : ∀ t, step s ≠ .next t) :
    ∃ inp rest, s.inputs = inp :: rest ∧
      ((∃ i, decode inp = .ok i ∧ step s = exec i (s.setInputs rest)) ∨
        ∃ d, decode inp = .error d ∧ step s = .refused (.badInput d)) := by
  cases hs : s.inputs with
  | nil => exact absurd (step_of_empty hs) (h s)
  | cons inp rest =>
    refine ⟨inp, rest, rfl, ?_⟩
    cases hd : decode inp with
    | ok i => exact .inl ⟨i, rfl, step_of_ok hs hd⟩
    | error d => exact .inr ⟨d, rfl, step_of_error hs hd⟩

/-! ### SEND -/

/-- SEND to a bound motor that is not transmitting and has no channel stops. -/
theorem sendOp_no_channel (p : Params) {m : BitVec 4} {k : MotIdx} (a : Nat) (tlm : Bool) {s : State}
    (hm : motorOf p m = some k) (hb : (s.motor k).bound = true) (hs : (s.motor k).st ≠ .transmitting)
    (hc : (s.motor k).txCh = none) : sendOp p m a tlm s = .fault (.noTxChannel k) := by
  simp [sendOp, hm, hb, hs, hc]

/-- The only fault of SEND. -/
theorem sendOp_eq_fault {p : Params} {m : BitVec 4} {a : Nat} {tlm : Bool} {s : State} {e : Fault}
    (h : sendOp p m a tlm s = .fault e) :
    ∃ k, motorOf p m = some k ∧ (s.motor k).bound = true ∧ (s.motor k).st ≠ .transmitting ∧ (s.motor k).txCh = none ∧
      e = .noTxChannel k := by
  rcases sendOp_cases p m a tlm s with h' | ⟨-, h'⟩ | ⟨k, hk, hb, hs, ⟨c, -, h'⟩ | ⟨hc, h'⟩⟩ <;> rw [h'] at h <;> cases h
  exact ⟨k, hk, hb, hs, hc, rfl⟩

/-- SEND is not refused where `SendWhileTx` is drop. -/
theorem sendOp_ne_refused {p : Params} (hp : p.sendWhileTx = .drop) (m : BitVec 4) (a : Nat) (tlm : Bool) (s : State)
    (e : Refusal) : sendOp p m a tlm s ≠ .refused e := by
  intro h
  rcases sendOp_cases p m a tlm s with h' | ⟨hr, -⟩ | ⟨k, -, -, -, ⟨c, -, h'⟩ | ⟨-, h'⟩⟩
  · rw [h'] at h; cases h
  · exact absurd (hp.symm.trans hr) (by decide)
  · rw [h'] at h; cases h
  · rw [h'] at h; cases h

/-- COMMAND with a code that is one is SEND of the code. -/
theorem commandOp_of_lt (p : Params) (m : BitVec 4) (tlm : Bool) {code : BitVec 16} (h : code.toNat < 48) (s : State) :
    commandOp p m tlm code s = sendOp p m code.toNat tlm s := if_neg (by omega)

/-- COMMAND with a code of 48 or more only responds 0. -/
theorem commandOp_of_le (p : Params) (m : BitVec 4) (tlm : Bool) {code : BitVec 16} (h : 48 ≤ code.toNat) (s : State) :
    commandOp p m tlm code s = .next (s.respond 0#32) := if_pos h

/-! ### Reading a capture -/

/-- Each of the pairs read has a value. -/
theorem State.memRead_of_readPairs {s : State} {c : Chan} (n i : Nat) {l : List CapPair} (h : s.readPairs c i n = some l) (j : Nat)
    (hj : j < n) : (s.memRead c (i + j)).isSome = true := by
  induction n generalizing i j l with
  | zero => omega
  | succ n ih =>
    simp only [State.readPairs] at h
    split at h
    · next q qs hq hqs =>
      cases j with
      | zero => simp [hq]
      | succ j =>
        have := ih (i + 1) hqs j (by omega)
        rwa [Nat.add_right_comm] at this
    · cases h

/-- RX_DONE cannot read the capture exactly when a pair below its length has no value. -/
theorem readCapture_eq_none_iff {s : State} {c : Chan} :
    ((s.clearRxDone c).rxTake c).readCapture c = none ↔ ∃ i, i < s.capLen c ∧ s.rxBuf.read (rxIndex c i) = none := by
  constructor
  · intro h
    by_contra hall
    push Not at hall
    have := readCapture_isSome (s := s) (c := c) fun i hi => Option.isSome_iff_ne_none.2 (hall i hi)
    simp [h] at this
  · rintro ⟨i, hi, hr⟩
    refine Option.eq_none_iff_forall_ne_some.2 fun l hl => ?_
    have hread := State.memRead_of_readPairs _ 0 hl i hi
    rw [Nat.zero_add, State.memRead] at hread
    split at hread
    · exact absurd hread (by simp [State.clearRxDone, State.rxTake, hr])
    · cases hread

/-! ### A handler run -/

/-- A list without repetition whose only member is `x` is `[x]`. -/
theorem eq_singleton_of_nodup {α : Type} {l : List α} {x : α} (hn : l.Nodup) (h : ∀ y, y ∈ l ↔ y = x) : l = [x] := by
  refine List.perm_singleton.1 ((List.perm_ext_iff_of_nodup hn (List.nodup_singleton x)).2 fun y => ?_)
  rw [h, List.mem_singleton]

/-- A run with one bit set is the service of this bit. -/
theorem isrOp_of_single_bit {p : Params} {s : State} {b : EvKind × Chan} (h : ∀ b', b' ∈ s.pending p ↔ b' = b) :
    isrOp p s = serviceBit p b s.nextChoice := by
  have hp : s.pending p = [b] := eq_singleton_of_nodup (State.nodup_pending p s) h
  have ho : serviceOrder p s.choices [b] = [b] := rfl
  rw [isrOp, hp, ho]
  cases hb : serviceBit p b s.nextChoice <;> simp [serviceAll, hb, Result.andThen]

/-- A run that finds one transmit bit is its service. -/
theorem isrOp_of_single_tx {p : Params} {s : State} {c : Chan} (hc : c.val < p.nCh)
    (htx : ∀ d, s.txDoneBit d = decide (d = c)) (hrx : ∀ d, s.rxDoneBit d = false) :
    isrOp p s = serviceBit p (.tx, c) s.nextChoice := by
  refine isrOp_of_single_bit fun ⟨kind, d⟩ => ?_
  rw [State.mem_pending]
  cases kind with
  | tx =>
    simp only [htx, decide_eq_true_eq, Prod.mk.injEq, true_and]
    exact ⟨fun h => h.2, fun h => ⟨h ▸ hc, h⟩⟩
  | rx => simp [hrx]

/-- A run that finds one receive bit is its service. -/
theorem isrOp_of_single_rx {p : Params} {s : State} {c : Chan} (hc : c.val < p.nCh)
    (htx : ∀ d, s.txDoneBit d = false) (hrx : ∀ d, s.rxDoneBit d = decide (d = c)) :
    isrOp p s = serviceBit p (.rx, c) s.nextChoice := by
  refine isrOp_of_single_bit fun ⟨kind, d⟩ => ?_
  rw [State.mem_pending]
  cases kind with
  | tx => simp [htx]
  | rx =>
    simp only [hrx, decide_eq_true_eq, Prod.mk.injEq, true_and]
    exact ⟨fun h => h.2, fun h => ⟨h ▸ hc, h⟩⟩

/-- The service of a transmit bit stops on a bidirectional owner without a receive channel. -/
theorem serviceBit_tx_no_rxCh {p : Params} {c : Chan} {s : State} {m : MotIdx} (ho : s.txOwner c = some m)
    (hb : (s.motor m).bidir = true) (hr : (s.motor m).rxCh = none) :
    serviceBit p (.tx, c) s = .fault (.noRxChannel m) := by
  rw [serviceBit_tx_owned ho]
  simp [txDone, hb, hr]

/-- The service of a receive bit stops on a capture with a pair that has no value. -/
theorem serviceBit_rx_unreadable {p : Params} {c : Chan} {s : State} {m : MotIdx} (ho : s.rxOwner c = some m) {i : Nat}
    (hi : i < s.capLen c) (hr : s.rxBuf.read (rxIndex c i) = none) :
    serviceBit p (.rx, c) s = .fault (.captureUnreadable c) := by
  rw [serviceBit_rx_owned ho, rxDone, readCapture_eq_none_iff.2 ⟨i, hi, hr⟩]

/-- The two stops of a service. -/
inductive ServiceFault (s : State) : EvKind × Chan → Fault → Prop where
  | noRxChannel (c : Chan) (m : MotIdx) : s.txOwner c = some m → (s.motor m).bidir = true → (s.motor m).rxCh = none →
      ServiceFault s (.tx, c) (.noRxChannel m)
  | captureUnreadable (c : Chan) (m : MotIdx) (i : Fin capMax) : s.rxOwner c = some m → i.val < s.capLen c →
      s.rxPair c i = none → ServiceFault s (.rx, c) (.captureUnreadable c)

/-- A service goes on or stops with one of the two faults. -/
theorem serviceBit_answers (p : Params) (b : EvKind × Chan) (s : State) :
    (∃ t, serviceBit p b s = .next t) ∨ ∃ e, serviceBit p b s = .fault e ∧ ServiceFault s b e := by
  obtain ⟨kind, c⟩ := b
  cases kind with
  | tx =>
    cases ho : s.txOwner c with
    | none => exact .inl ⟨_, serviceBit_tx_unowned ho⟩
    | some m =>
      rw [serviceBit_tx_owned ho]
      rcases txDone_cases m c s with ⟨-, h⟩ | ⟨r, -, -, h⟩ | ⟨hb, hr, h⟩
      · exact .inl ⟨_, h⟩
      · exact .inl ⟨_, h⟩
      · exact .inr ⟨_, h, .noRxChannel c m ho hb hr⟩
  | rx =>
    cases ho : s.rxOwner c with
    | none => exact .inl ⟨_, serviceBit_rx_unowned ho⟩
    | some m =>
      rw [serviceBit_rx_owned ho]
      rcases rxDone_cases p m c s with ⟨hc, h⟩ | ⟨cap, -, h⟩
      · obtain ⟨i, hi, hr⟩ := readCapture_eq_none_iff.1 hc
        exact .inr ⟨_, h, .captureUnreadable c m ⟨i, hi.trans_le (State.capLen_le s c)⟩ ho hi hr⟩
      · exact .inl ⟨_, h⟩

/-- Every fault of a service is one of the two. -/
theorem serviceBit_eq_fault {p : Params} {b : EvKind × Chan} {s : State} {e : Fault} (h : serviceBit p b s = .fault e) :
    ServiceFault s b e := by
  rcases serviceBit_answers p b s with ⟨t, ht⟩ | ⟨e', he, hf⟩
  · exact nomatch ht.symm.trans h
  · cases he.symm.trans h
    exact hf

/-- No service is refused. -/
theorem serviceBit_ne_refused (p : Params) (b : EvKind × Chan) (s : State) (e : Refusal) : serviceBit p b s ≠ .refused e := by
  intro h
  rcases serviceBit_answers p b s with ⟨t, ht⟩ | ⟨e', he, -⟩
  · exact nomatch ht.symm.trans h
  · exact nomatch he.symm.trans h

theorem serviceAll_ne_refused (p : Params) (bits : List (EvKind × Chan)) (s : State) (e : Refusal) :
    serviceAll p bits s ≠ .refused e := by
  induction bits generalizing s with
  | nil => intro h; cases h
  | cons b bs ih =>
    intro h
    rw [serviceAll] at h
    cases hb : serviceBit p b s with
    | next u => rw [hb] at h; exact ih u h
    | fault e' => rw [hb] at h; cases h
    | refused e' => exact serviceBit_ne_refused p b s e' hb

/-- A run of services that stops stops at one of them, in a state with every property that the services keep. -/
theorem serviceAll_eq_fault {p : Params} {P : State → Prop} {bits : List (EvKind × Chan)} {s : State} {e : Fault}
    (hP : ∀ b u v, P u → ServiceCase p u b v → P v) (hs : P s) (h : serviceAll p bits s = .fault e) :
    ∃ b ∈ bits, ∃ u, P u ∧ ServiceFault u b e := by
  induction bits generalizing s with
  | nil => cases h
  | cons b bs ih =>
    rw [serviceAll] at h
    cases hb : serviceBit p b s with
    | next u =>
      rw [hb] at h
      obtain ⟨b', hmem, hf⟩ := ih (hP b s u hs (serviceBit_cases hb)) h
      exact ⟨b', List.mem_cons_of_mem _ hmem, hf⟩
    | fault e' =>
      rw [hb] at h
      cases h
      exact ⟨b, List.mem_cons_self, s, hs, serviceBit_eq_fault hb⟩
    | refused e' => exact absurd hb (serviceBit_ne_refused p b s e')

/-- What a service cannot change of what decides whether a later one stops: the bindings, the captures and their lengths. -/
structure KeepsCaptures (s t : State) : Prop where
  binding : KeepsBinding s t
  rxBuf : t.rxBuf = s.rxBuf
  rxLen : t.rxLen = s.rxLen

theorem Change.Leads.rxBuf_rxLen {e : Change} {m : MotIdx} {s t : State} (h : e.Leads m s t) :
    t.rxBuf = s.rxBuf ∧ t.rxLen = s.rxLen := by
  rw [h.rest]
  exact ⟨rfl, rfl⟩

theorem ServiceCase.rxBuf_rxLen {p : Params} {b : EvKind × Chan} {s t : State} (h : ServiceCase p s b t) :
    t.rxBuf = s.rxBuf ∧ t.rxLen = s.rxLen := by
  cases h with
  | clearsTx c => exact ⟨rfl, rfl⟩
  | clearsRx c => exact ⟨rfl, rfl⟩
  | txUnidir m c _ _ _ hl => exact hl.rxBuf_rxLen
  | txBidir m c r _ _ _ _ hl => exact hl.rxBuf_rxLen
  | rx m c cap _ _ hl => exact hl.rxBuf_rxLen

/-- A service that stops in a later state of the run stops in the first one. -/
theorem ServiceFault.of_keepsCaptures {s u : State} {b : EvKind × Chan} {e : Fault} (h : ServiceFault u b e)
    (hk : KeepsCaptures s u) : ServiceFault s b e := by
  cases h with
  | noRxChannel c m ho hb hr =>
    have hi := hk.binding.identity m
    exact .noRxChannel c m ((hk.binding.txOwner c).symm.trans ho) (hi.bidir.symm.trans hb) (hi.rxCh.symm.trans hr)
  | captureUnreadable c m i ho hi hr =>
    refine .captureUnreadable c m i ((hk.binding.rxOwner c).symm.trans ho) ?_ ?_
    · simpa only [State.capLen, hk.rxLen] using hi
    · simpa only [State.rxPair, hk.rxBuf] using hr

/-- A handler run that stops stops at a bit set at its entry, for a cause that stands in the entry state. -/
theorem isrOp_eq_fault {p : Params} {s : State} {e : Fault} (h : isrOp p s = .fault e) :
    ∃ b ∈ s.pending p, ServiceFault s b e := by
  unfold isrOp at h
  split at h
  · cases h
  · have hkeep : ∀ b u v, KeepsCaptures s u → ServiceCase p u b v → KeepsCaptures s v := fun b u v hu hc =>
      ⟨hu.binding.trans hc.keepsBinding, hc.rxBuf_rxLen.1.trans hu.rxBuf, hc.rxBuf_rxLen.2.trans hu.rxLen⟩
    obtain ⟨b, hb, u, hu, hf⟩ := serviceAll_eq_fault (s := s.nextChoice) hkeep ⟨.of_eq rfl rfl rfl rfl, rfl, rfl⟩ h
    exact ⟨b, (serviceOrder_perm p s.choices _).mem_iff.1 hb, hf.of_keepsCaptures hu⟩

/-- No handler run is refused. -/
theorem isrOp_ne_refused (p : Params) (s : State) (e : Refusal) : isrOp p s ≠ .refused e := by
  unfold isrOp
  split
  · exact fun h => nomatch h
  · exact serviceAll_ne_refused p _ _ e

/-! ### Every instruction -/

/-- BRINGUP always goes on. -/
theorem bringupOp_next (p : Params) (m : BitVec 4) (pin : Pin) (code : BitVec 4) (s : State) :
    ∃ t, bringupOp p m pin code s = .next t := by
  rcases bringupOp_cases p m pin code s with h | ⟨_, _, _, -, -, -, -, -, -, h⟩
  · exact ⟨_, h⟩
  · exact ⟨_, h⟩

/-- READ always goes on. -/
theorem readOp_next (p : Params) (m : BitVec 4) (sel : BitVec 8) (s : State) : ∃ t, readOp p m sel s = .next t := by
  unfold readOp
  split
  · exact ⟨_, rfl⟩
  · exact ⟨_, rfl⟩

/-- EV_TX always goes on. -/
theorem evTxOp_next (p : Params) (c : BitVec 4) (s : State) : ∃ t, evTxOp p c s = .next t := by
  unfold evTxOp
  split
  · exact ⟨_, rfl⟩
  · exact ⟨_, rfl⟩

/-- EV_RX refuses a capture of more than 21 pairs on a channel of the pool. -/
theorem evRxOp_too_long {p : Params} {c : BitVec 4} {k : Chan} {capture : List CapPair} (hk : channelOf p c = some k)
    (hl : capMax < capture.length) (s : State) : evRxOp p c capture s = .refused .captureTooLong := by
  have hno : ¬ capture.length < capMax + 1 := by omega
  simp [evRxOp, hk, hno]

/-- EV_RX goes on, or it is refused for a capture of more than 21 pairs on a channel of the pool. -/
theorem evRxOp_answers (p : Params) (c : BitVec 4) (capture : List CapPair) (s : State) :
    (∃ t, evRxOp p c capture s = .next t) ∨
    (evRxOp p c capture s = .refused .captureTooLong ∧ c.toNat < p.nCh ∧ capMax < capture.length) := by
  cases hk : channelOf p c with
  | none => exact .inl ⟨s, by simp [evRxOp, hk]⟩
  | some k =>
    by_cases hl : capture.length < capMax + 1
    · exact .inl ⟨receiveComplete k capture hl s, by simp [evRxOp, hk, hl]⟩
    · obtain ⟨hv, hlt⟩ := channelOf_eq_some.1 hk
      exact .inr ⟨evRxOp_too_long hk (by omega) s, by omega, by omega⟩

/-- The instruction sends a value to the motor the operand names: SEND, THROTTLE, or COMMAND with a code that is one. -/
def Sends (i : Instr) (m : BitVec 4) : Prop :=
  ∃ (tlm : Bool) (x : BitVec 16), i = .send m tlm x ∨ i = .throttle m tlm x ∨ i = .command m tlm x ∧ x.toNat < 48

/-- Every instruction goes on, is a SEND, is refused for its capture, or is a handler run. -/
theorem exec_answers (i : Instr) (s : State) :
    (∃ t, exec i s = .next t) ∨
    (∃ m a tlm, Sends i m ∧ exec i s = sendOp Config.params m a tlm s) ∨
    (∃ c capture, i = .evRx c capture ∧ c.toNat < Config.params.nCh ∧ capMax < capture.length ∧
      exec i s = .refused .captureTooLong) ∨
    (i = .isr ∧ exec i s = isrOp Config.params s) := by
  cases i with
  | send m tlm x => exact .inr (.inl ⟨m, _, tlm, ⟨tlm, x, .inl rfl⟩, rfl⟩)
  | throttle m tlm x => exact .inr (.inl ⟨m, _, tlm, ⟨tlm, x, .inr (.inl rfl)⟩, rfl⟩)
  | command m tlm x =>
    by_cases hx : x.toNat < 48
    · exact .inr (.inl ⟨m, _, tlm, ⟨tlm, x, .inr (.inr ⟨rfl, hx⟩)⟩, commandOp_of_lt _ _ _ hx _⟩)
    · exact .inl ⟨_, commandOp_of_le _ _ _ (by omega) _⟩
  | evRx c capture =>
    rcases evRxOp_answers Config.params c capture s with ht | ⟨hr, hc, hl⟩
    · exact .inl ht
    · exact .inr (.inr (.inl ⟨c, capture, rfl, hc, hl, hr⟩))
  | isr => exact .inr (.inr (.inr ⟨rfl, rfl⟩))
  | bringup m pin code => exact .inl (bringupOp_next _ _ _ _ _)
  | read m sel => exact .inl (readOp_next _ _ _ _)
  | evTx c => exact .inl (evTxOp_next _ _ _)
  | nop => exact .inl ⟨_, rfl⟩
  | reserved6 => exact .inl ⟨_, rfl⟩
  | reserved7 => exact .inl ⟨_, rfl⟩
  | reservedB => exact .inl ⟨_, rfl⟩
  | reservedC => exact .inl ⟨_, rfl⟩
  | reservedD => exact .inl ⟨_, rfl⟩
  | reservedE => exact .inl ⟨_, rfl⟩
  | reservedF => exact .inl ⟨_, rfl⟩

/-- Every fault of `exec`: of a sending instruction on an motor with no channel, or of a service in a handler run. -/
theorem exec_eq_fault {i : Instr} {s : State} {e : Fault} (h : exec i s = .fault e) :
    (∃ m k, Sends i m ∧ motorOf Config.params m = some k ∧ (s.motor k).bound = true ∧ (s.motor k).st ≠ .transmitting ∧
      (s.motor k).txCh = none ∧ e = .noTxChannel k) ∨
    (i = .isr ∧ ∃ b ∈ s.pending Config.params, ServiceFault s b e) := by
  rcases exec_answers i s with ⟨t, ht⟩ | ⟨m, a, tlm, hi, hx⟩ | ⟨c, capture, -, -, -, hr⟩ | ⟨hi, hx⟩
  · exact nomatch ht.symm.trans h
  · obtain ⟨k, hk⟩ := sendOp_eq_fault (hx.symm.trans h)
    exact .inl ⟨m, k, hi, hk⟩
  · exact nomatch hr.symm.trans h
  · exact .inr ⟨hi, isrOp_eq_fault (hx.symm.trans h)⟩

/-- The only refusal of `exec`: EV_RX with a capture of more than 21 pairs. -/
theorem exec_eq_refused {i : Instr} {s : State} {e : Refusal} (h : exec i s = .refused e) :
    e = .captureTooLong ∧ ∃ (c : BitVec 4) (capture : List CapPair),
      i = .evRx c capture ∧ c.toNat < Config.params.nCh ∧ capMax < capture.length := by
  rcases exec_answers i s with ⟨t, ht⟩ | ⟨m, a, tlm, -, hx⟩ | ⟨c, capture, hi, hc, hl, hr⟩ | ⟨-, hx⟩
  · exact nomatch ht.symm.trans h
  · exact absurd (hx.symm.trans h) (sendOp_ne_refused rfl _ _ _ _ _)
  · cases hr.symm.trans h
    exact ⟨rfl, c, capture, hi, hc, hl⟩
  · exact absurd (hx.symm.trans h) (isrOp_ne_refused _ _ _)

/-- A step is refused only for an input that is no word: a decoded capture is never too long. -/
theorem step_eq_refused {s : State} {e : Refusal} (h : step s = .refused e) :
    ∃ inp rest d, s.inputs = inp :: rest ∧ decode inp = .error d ∧ e = .badInput d := by
  obtain ⟨inp, rest, hs, ⟨i, hd, hx⟩ | ⟨d, hd, hx⟩⟩ := step_stops fun t ht => nomatch ht.symm.trans h
  · obtain ⟨-, c, capture, rfl, -, hl⟩ := exec_eq_refused (hx.symm.trans h)
    have hfits : capture.length ≤ capMax := of_decide_eq_true (decode_wellFormed hd)
    omega
  · cases hx.symm.trans h
    exact ⟨inp, rest, d, hs, hd, rfl⟩

/-- Settles O48: the first five clauses run the stopping operation, the last three read off every fault and refusal of `exec` and
`step`. -/
theorem stopsAreNamed : Obligations.StopsAreNamed := by
  refine ⟨fun m tlm x s k hm hk hb hs hc => ?_, fun s c m hc htx hrx ho hb hr => ?_, fun s c m i hc htx hrx ho hi hr => ?_,
    fun c capture s k hc hk hl => ?_, fun s inp rest e hs hd => step_of_error hs hd, fun i s e h => ?_,
    fun i s e h => exec_eq_refused h, fun s => ⟨fun e h => ?_, fun e h => step_eq_refused h⟩⟩
  · have hmot := motorOf_eq_some.2 ⟨hm, hk⟩
    refine ⟨sendOp_no_channel _ _ _ hmot hb hs hc, sendOp_no_channel _ _ _ hmot hb hs hc, fun hx => ?_⟩
    exact (commandOp_of_lt _ m tlm hx s).trans (sendOp_no_channel _ _ _ hmot hb hs hc)
  · exact (isrOp_of_single_tx hc htx hrx).trans (serviceBit_tx_no_rxCh ho hb hr)
  · exact (isrOp_of_single_rx hc htx hrx).trans (serviceBit_rx_unreadable ho hi hr)
  · exact evRxOp_too_long (channelOf_eq_some.2 ⟨hc, hk⟩) hl s
  · rcases exec_eq_fault h with ⟨m, k, ⟨tlm, x, hi⟩, hk, hb, hs, hc, rfl⟩ | ⟨rfl, b, hp, hf⟩
    · obtain ⟨hm, hlt⟩ := motorOf_eq_some.1 hk
      exact .inl ⟨m, tlm, x, k, hi, hm, hlt, hb, hs, hc, rfl⟩
    · obtain ⟨hlt, hbit⟩ := State.mem_pending.1 hp
      cases hf with
      | noRxChannel c m ho hb hr => exact .inr (.inl ⟨rfl, c, m, hlt, hbit, ho, hb, hr, rfl⟩)
      | captureUnreadable c m i ho hi hr => exact .inr (.inr ⟨rfl, c, m, i, hlt, hbit, ho, hi, hr, rfl⟩)
  · obtain ⟨inp, rest, hs, ⟨i, hd, hx⟩ | ⟨d, hd, hx⟩⟩ := step_stops fun t ht => nomatch ht.symm.trans h
    · exact ⟨inp, rest, i, hs, hd, hx.symm.trans h⟩
    · exact nomatch hx.symm.trans h

end Sys2Proof.Machine
end

section
/-!
The agents of the block (spec/20_memory.md R73, R75): the services of two instances touch disjoint parts of the state but for the trace,
and no operation but the handler run writes the telemetry of a bound instance.
-/

namespace Sys2Proof.Machine

/-! ### The services of two instances -/

/-- `u` agrees with `s` on all that the service of a bit owned by `m` reads: the routing, the record of `m` and the captures. -/
structure SameServiceView (m : MotIdx) (s u : State) : Prop where
  motor : u.motor m = s.motor m
  txOwner : ∀ c, u.txOwner c = s.txOwner c
  rxOwner : ∀ c, u.rxOwner c = s.rxOwner c
  rxBuf : u.rxBuf = s.rxBuf
  rxLen : u.rxLen = s.rxLen

theorem SameServiceView.refl (m : MotIdx) (s : State) : SameServiceView m s s := ⟨rfl, fun _ => rfl, fun _ => rfl, rfl, rfl⟩

/-- A service of one instance changes nothing that the services of another read. -/
theorem Change.Leads.sameServiceView {e : Change} {m m' : MotIdx} {s u : State} (h : e.Leads m s u) (hne : m' ≠ m) :
    SameServiceView m' s u where
  motor := by rw [h.motor, if_neg hne]
  txOwner c := by rw [h.rest]; rfl
  rxOwner c := by rw [h.rest]; rfl
  rxBuf := h.rxBuf_rxLen.1
  rxLen := h.rxBuf_rxLen.2

/-- In a good state the service of an owned bit is one change, which it also makes from every state that looks the same to it. -/
theorem Inv.serviceBit_leads {p : Params} {s : State} {b : EvKind × Chan} {m : MotIdx} (h : Inv p s)
    (ho : s.route b.1 b.2 = some m) :
    ∃ e : Change, ∀ u, SameServiceView m s u → ∃ t, serviceBit p b u = .next t ∧ e.Leads m u t := by
  obtain ⟨kind, c⟩ := b
  cases kind with
  | tx =>
    cases hb : (s.motor m).bidir with
    | false =>
      refine ⟨txChangeUnidir c (s.motor m), fun u hu => ?_⟩
      rw [serviceBit_tx_owned ((hu.txOwner c).trans ho), ← hu.motor]
      exact txDone_unidir c (hu.motor ▸ hb)
    | true =>
      have hrx := (h.motors m).receive (h.bound_of_txOwner ho)
      obtain ⟨r, hr⟩ := Option.isSome_iff_exists.1 (hrx.trans hb)
      refine ⟨txChangeBidir m c r (s.motor m), fun u hu => ?_⟩
      rw [serviceBit_tx_owned ((hu.txOwner c).trans ho), ← hu.motor]
      exact txDone_bidir c (hu.motor ▸ hb) (hu.motor ▸ hr)
  | rx =>
    obtain ⟨cap, hcap⟩ := Option.isSome_iff_exists.1 (readCapture_isSome (h.buffers.written c))
    refine ⟨rxChange p m c cap (s.motor m), fun u hu => ?_⟩
    rw [serviceBit_rx_owned ((hu.rxOwner c).trans ho), ← hu.motor]
    exact rxDone_leads p ((readCapture_congr hu.rxBuf hu.rxLen).trans hcap)

/-- What two changes in a row leave alone. -/
theorem Change.Leads.rest_trans {e e' : Change} {m m' : MotIdx} {s u t : State} (h : e.Leads m s u) (h' : e'.Leads m' u t) :
    t = { s with mot := t.mot, txSt := t.txSt, rxSt := t.rxSt, rxOwn := t.rxOwn, rxArmed := t.rxArmed, trace := t.trace } :=
  h'.rest.trans (by rw [h.rest])

/-- The changes of two instances commute but for the order of their actions: the records are two, and clearing bits, handing buffers
over and counting arms do not depend on the order even on one channel. -/
theorem Change.Leads.commute {e e' : Change} {m m' : MotIdx} {s u u' t t' : State} (hne : m ≠ m')
    (hu : e.Leads m s u) (ht : e'.Leads m' u t) (hu' : e'.Leads m' s u') (ht' : e.Leads m u' t') :
    t' = { t with trace := t'.trace } ∧ t'.trace.Perm t.trace := by
  have hmot : t'.mot = t.mot := vector_ext fun j => by
    change t'.motor j = t.motor j
    rw [ht'.motor, hu'.motor, ht.motor, hu.motor]
    by_cases h : j = m
    · simp [h, hne]
    · simp [h]
  have htx : t'.txSt = t.txSt := vector_ext fun c => by
    change t'.txDoneBit c = t.txDoneBit c
    rw [ht'.txDoneBit, hu'.txDoneBit, ht.txDoneBit, hu.txDoneBit]
    split <;> split <;> rfl
  have hrx : t'.rxSt = t.rxSt := vector_ext fun c => by
    change t'.rxDoneBit c = t.rxDoneBit c
    rw [ht'.rxDoneBit, hu'.rxDoneBit, ht.rxDoneBit, hu.rxDoneBit]
    split <;> split <;> rfl
  have hown : t'.rxOwn = t.rxOwn := vector_ext fun c => by
    change t'.capOwner c = t.capOwner c
    rw [ht'.capOwner, hu'.capOwner, ht.capOwner, hu.capOwner]
    split <;> split <;> rfl
  have harm : t'.rxArmed = t.rxArmed := vector_ext fun c => by
    change t'.armed c = t.armed c
    rw [ht'.armed, hu'.armed, ht.armed, hu.armed]
    split <;> split <;> rfl
  constructor
  · calc t' = { s with mot := t'.mot, txSt := t'.txSt, rxSt := t'.rxSt, rxOwn := t'.rxOwn, rxArmed := t'.rxArmed,
                       trace := t'.trace } := hu'.rest_trans ht'
      _ = { s with mot := t.mot, txSt := t.txSt, rxSt := t.rxSt, rxOwn := t.rxOwn, rxArmed := t.rxArmed,
                   trace := t'.trace } := by rw [hmot, htx, hrx, hown, harm]
      _ = { t with trace := t'.trace } := by rw [hu.rest_trans ht]
  · rw [ht'.trace, hu'.trace, ht.trace, hu.trace, List.append_assoc, List.append_assoc]
    exact List.perm_append_comm.append_left _

/-- Two services that both answer a next state run one after the other. -/
theorem serviceAll_pair {p : Params} {b b' : EvKind × Chan} {s u t : State} (h : serviceBit p b s = .next u)
    (h' : serviceBit p b' u = .next t) : serviceAll p [b, b'] s = .next t := by
  simp [serviceAll, h, h']

/-- Settles O46: each service makes the same change before and after the other, and the two changes commute. -/
theorem servicesOfTwoInstancesCommute : Obligations.ServicesOfTwoInstancesCommute := by
  intro p s b b' m m' hi ho ho' hne
  obtain ⟨e, he⟩ := hi.serviceBit_leads ho
  obtain ⟨e', he'⟩ := hi.serviceBit_leads ho'
  obtain ⟨u, hb, hu⟩ := he s (.refl m s)
  obtain ⟨u', hb', hu'⟩ := he' s (.refl m' s)
  obtain ⟨t, hbt, ht⟩ := he' u (hu.sameServiceView hne.symm)
  obtain ⟨t', hbt', ht'⟩ := he u' (hu'.sameServiceView hne)
  exact ⟨t, t', serviceAll_pair hb hbt, serviceAll_pair hb' hbt', hu.commute hne ht hu' ht'⟩

/-! ### Telemetry -/

theorem SameTelemetry.refl (r : Motor) : SameTelemetry r r := ⟨rfl, rfl, rfl, rfl, rfl, rfl⟩

/-- A started transmission writes the half-duplex state and the line of a record, and no telemetry. -/
theorem startTransmission_telemetry (p : Params) (k : MotIdx) (c : Chan) (a : Nat) (tlm : Bool) (s : State) (m : MotIdx) :
    SameTelemetry (s.motor m) ((startTransmission p k c a tlm s).motor m) := by
  rw [startTransmission_motor]
  split
  · next h => subst h; exact ⟨rfl, rfl, rfl, rfl, rfl, rfl⟩
  · exact .refl _

/-- No operation but the handler run writes the telemetry of a bound motor: a bring-up writes the record of an unbound slot. -/
theorem ExecCase.sameTelemetry {p : Params} {s : State} {i : Instr} {t : State} (h : ExecCase p s i t) (hi : i ≠ .isr)
    {m : MotIdx} (hm : (s.motor m).bound = true) : SameTelemetry (s.motor m) (t.motor m) := by
  cases h with
  | responds i w => exact .refl _
  | nothing i => exact .refl _
  | commits x pin code k tx rx _ hb _ _ huni hbi =>
    have hne : m ≠ k := by
      rintro rfl
      exact absurd (hm.symm.trans hb) (by decide)
    obtain ⟨hmot, -⟩ := commit_effect s k pin (normClass p code) tx rx fun r hr =>
      ((receive_channel_of_commit huni hbi).2 r hr).2.2
    simpa [hmot, hne] using SameTelemetry.refl _
  | transmits i k c a tlm =>
    rw [State.respond_motor]
    exact startTransmission_telemetry p k c a tlm s m
  | transmitted x k => exact .refl _
  | received x l k => exact .refl _
  | handled t h => exact absurd rfl hi

/-- Settles O54: one case analysis of `exec`. -/
theorem onlyTheHandlerWritesTelemetry : Obligations.OnlyTheHandlerWritesTelemetry :=
  fun _ _ _ _ h hi hm => (exec_cases h).sameTelemetry hi hm

end Sys2Proof.Machine
end

section
/-!
The command words and the formats of spec/30_encoding.md: what the decoder reads of a word (R112 to R119), the slot word (R100), the
class code (R97), the GCR table (R108, R109), and what READ, THROTTLE and a reserved opcode do (R117, R95, R116).
-/

namespace Sys2Proof.Machine

/-! ### The fields of a packed word -/

@[simp] theorem opField_packWord (op index : BitVec 4) (tlm : Bool) (arg : BitVec 16) :
    opField (packWord op index tlm arg) = op := (Laws.OpcodeField.packWord_fields op index tlm arg).1

@[simp] theorem indexField_packWord (op index : BitVec 4) (tlm : Bool) (arg : BitVec 16) :
    indexField (packWord op index tlm arg) = index := by
  rw [indexField, packWord, BitVec.extractLsb'_append_eq_of_le (by decide), BitVec.extractLsb'_append_eq_of_le (by decide),
    BitVec.extractLsb'_append_eq_of_le (by decide)]
  exact BitVec.extractLsb'_append_eq_right

@[simp] theorem tlmField_packWord (op index : BitVec 4) (tlm : Bool) (arg : BitVec 16) :
    tlmField (packWord op index tlm arg) = tlm := by
  simp only [tlmField, packWord, BitVec.getLsbD_append]
  simp

@[simp] theorem argField_packWord (op index : BitVec 4) (tlm : Bool) (arg : BitVec 16) :
    argField (packWord op index tlm arg) = arg := BitVec.extractLsb'_append_eq_right

/-- Pin and class code stand at the two ends of the argument of BRINGUP (R113). -/
@[simp] theorem pinField_packWord (op index : BitVec 4) (tlm : Bool) (pin : Pin) (z code : BitVec 4) :
    pinField (packWord op index tlm (pin ++ z ++ code)) = pin := by
  rw [pinField, packWord, BitVec.extractLsb'_append_eq_of_add_le (by decide), BitVec.extractLsb'_append_eq_of_le (by decide)]
  exact BitVec.extractLsb'_append_eq_left

@[simp] theorem codeField_packWord (op index : BitVec 4) (tlm : Bool) (pin : Pin) (z code : BitVec 4) :
    codeField (packWord op index tlm (pin ++ z ++ code)) = code := by
  rw [codeField, packWord, BitVec.extractLsb'_append_eq_of_add_le (by decide)]
  exact BitVec.extractLsb'_append_eq_right

/-- The selector stands in the lower half of the argument of READ (R113). -/
@[simp] theorem selField_packWord (op index : BitVec 4) (tlm : Bool) (z sel : BitVec 8) :
    selField (packWord op index tlm (z ++ sel)) = sel := by
  rw [selField, packWord, BitVec.extractLsb'_append_eq_of_add_le (by decide)]
  exact BitVec.extractLsb'_append_eq_right

/-! ### Decoding -/

/-- A word that is no EV_RX, with no capture beside it, is an input of the alphabet (R116). -/
theorem decode_of_ne_evRx {w : Word} (h : opField w ≠ 9#4) : decode ⟨w, []⟩ = .ok (decodeWord w []) := by
  simp [decode, h]

/-- An EV_RX word delivers a capture that fits (R119). -/
theorem decode_of_evRx {w : Word} {capture : List CapPair} (h : opField w = 9#4) (hc : captureFits capture = true) :
    decode ⟨w, capture⟩ = .ok (.evRx (indexField w) capture) := by
  simp [decode, decodeWord, h, hc]

/-- Settles O3: every field of a packed word is read back, and the opcode selects the instruction's own arm. -/
theorem decodeOfEncodeIsTheInstruction : Obligations.DecodeOfEncodeIsTheInstruction := by
  intro i hi
  cases i with
  | evRx c capture =>
    simpa only [encode, indexField_packWord] using decode_of_evRx (opField_packWord 9#4 c false 0#16) hi
  | _ => simp [encode, decode_of_ne_evRx, decodeWord]

/-- Two words with one opcode that `decodeWord` reads alike are decoded alike: the tests of the capture see the opcode alone. -/
theorem decode_congr {w w' : Word} (hop : opField w' = opField w) (h : ∀ capture, decodeWord w' capture = decodeWord w capture)
    (capture : List CapPair) : decode ⟨w', capture⟩ = decode ⟨w, capture⟩ := by
  simp only [decode, hop, h]

/-- A piece of a word depends on its own bits alone. -/
theorem extract_congr {w w' : Word} {start len : Nat} (h : ∀ i, start ≤ i → i < start + len → w'.getLsbD i = w.getLsbD i) :
    w'.extractLsb' start len = w.extractLsb' start len :=
  BitVec.eq_of_getLsbD_eq fun i hi => by
    simp only [BitVec.getLsbD_extractLsb', h (start + i) (by omega) (by omega)]

/-- Settles O4: each arm of the opcode map reads the pieces its opcode names, on which the two words agree. -/
theorem decodeIgnoresReservedBits : Obligations.DecodeIgnoresReservedBits := by
  intro w w' capture agreeOp agreeIndex agreePin agreeCode agreeFlagArg agreeSel
  have hop : opField w' = opField w := extract_congr fun i hl hi => agreeOp i hi hl
  have hindex (h : 1 ≤ (opField w).toNat ∧ (opField w).toNat ≤ 5 ∨ (opField w).toNat = 8 ∨ (opField w).toNat = 9) :
      indexField w' = indexField w := extract_congr fun i hl hi => agreeIndex h i hi hl
  have hpin (h : (opField w).toNat = 1) : pinField w' = pinField w := extract_congr fun i hl hi => agreePin h i hi hl
  have hcode (h : (opField w).toNat = 1) : codeField w' = codeField w := extract_congr fun i _ hi => agreeCode h i (by omega)
  have htlm (h : 2 ≤ (opField w).toNat ∧ (opField w).toNat ≤ 4) : tlmField w' = tlmField w := agreeFlagArg h 16 (by decide)
  have harg (h : 2 ≤ (opField w).toNat ∧ (opField w).toNat ≤ 4) : argField w' = argField w :=
    extract_congr fun i _ hi => agreeFlagArg h i (by omega)
  have hsel (h : (opField w).toNat = 5) : selField w' = selField w := extract_congr fun i _ hi => agreeSel h i (by omega)
  refine decode_congr hop (fun capture => ?_) capture
  simp only [decodeWord, hop]
  split
  case h_2 h => rw [hindex (by omega), hpin h, hcode h]
  case h_3 h | h_4 h | h_5 h => rw [hindex (by omega), htlm (by omega), harg (by omega)]
  case h_6 h => rw [hindex (by omega), hsel h]
  case h_9 h | h_10 h => rw [hindex (by omega)]
  all_goals rfl

/-- Settles O2: the words are closed, and `decode` evaluates each. -/
theorem listedCommandWordsDecode : Obligations.ListedCommandWordsDecode := by
  unfold Obligations.ListedCommandWordsDecode
  decide

/-- Settles O5: taking the first word leaves the state with the rest of the words. -/
theorem stepRunsTheDecodedInstruction : Obligations.StepRunsTheDecodedInstruction :=
  ⟨fun _ _ _ _ hs hd _ => step_of_ok hs hd, fun _ => step_of_empty⟩

/-! ### Reserved opcodes, READ and THROTTLE -/

/-- `respond` gives its word and changes nothing else. -/
theorem State.respond_onlyResponds (s : State) (w : Word) : OnlyResponds w s (s.respond w) := rfl

/-- Settles O7: the arm of each reserved opcode is `reservedOp`. -/
theorem reservedOpcodesOnlyRespondZero : Obligations.ReservedOpcodesOnlyRespondZero := by
  intro s i hi
  have hexec : exec i s = reservedOp s := by
    simp only [List.mem_cons, List.not_mem_nil, or_false] at hi
    rcases hi with rfl | rfl | rfl | rfl | rfl | rfl | rfl <;> rfl
  exact ⟨_, hexec, s.respond_onlyResponds 0#32⟩

/-- Selectors 0x08 to 0x0F select the telemetry slots (R117). -/
theorem selectWord_slot (p : Params) (r : Motor) {sel : BitVec 8} (i : Fin 8) (h : sel.toNat = 8 + i.val) :
    selectWord p r sel = r.tlmSlot[i].setWidth 32 := by
  fin_cases i <;> simp [selectWord, h]

/-- The selectors that R117 does not list select 0. -/
theorem selectWord_undefined (p : Params) (r : Motor) {sel : BitVec 8} (h : sel.toNat = 6 ∨ sel.toNat = 7 ∨ 16 ≤ sel.toNat) :
    selectWord p r sel = 0#32 := by
  unfold selectWord
  split
  case h_15 => rfl
  all_goals omega

/-- Saturation is the minimum with the largest word. -/
theorem saturate32_toNat (n : Nat) : (saturate32 n).toNat = min n 0xFFFFFFFF := by
  rw [saturate32, BitVec.toNat_ofNat, Nat.mod_eq_of_lt (by omega)]

/-- READ of an index that is one responds the selected word. -/
theorem readOp_of_motorOf {p : Params} {m : BitVec 4} {k : MotIdx} (h : motorOf p m = some k) (sel : BitVec 8) (s : State) :
    readOp p m sel s = .next (s.respond (selectWord p (s.motor k) sel)) := by simp [readOp, h]

/-- READ of an index that is none only responds 0. -/
theorem readOp_of_le {p : Params} {m : BitVec 4} (h : p.nMot ≤ m.toNat) (sel : BitVec 8) (s : State) :
    readOp p m sel s = .next (s.respond 0#32) := by simp [readOp, motorOf_eq_none h]

/-- Settles O8: READ responds `selectWord`, whose arms are the clauses. -/
theorem readRespondsTheSelectedWord : Obligations.ReadRespondsTheSelectedWord := by
  intro m sel s
  constructor
  · intro k hm hk
    refine ⟨_, _, readOp_of_motorOf (motorOf_eq_some.2 ⟨hm, hk⟩) sel s, s.respond_onlyResponds _,
      ?_, ?_, ?_, ?_, ?_, ?_, ?_, ?_⟩
    · rintro rfl; exact BitVec.toNat_setWidth_of_le (by decide)
    · rintro rfl; exact BitVec.toNat_setWidth_of_le (by decide)
    · rintro rfl; rfl
    · rintro rfl; rfl
    · rintro rfl; rfl
    · rintro rfl; exact saturate32_toNat _
    · intro i hi; rw [selectWord_slot _ _ i hi]; exact BitVec.toNat_setWidth_of_le (by decide)
    · exact selectWord_undefined _ _
  · intro hm
    exact ⟨_, readOp_of_le hm sel s, s.respond_onlyResponds 0#32⟩

/-- A slot of the transmit buffer after a start: the channel's own slots hold the train, every other slot its old word. -/
theorem startTransmission_txSlot (p : Params) (m : MotIdx) (c : Chan) (a : Nat) (tlm : Bool) (s : State) (d : Chan)
    (i : Fin nSlots) :
    (startTransmission p m c a tlm s).txSlot d i =
      if d = c then (encodeTrain p a tlm (s.motor m).cls (s.motor m).bidir)[i.val]? else s.txSlot d i := by
  have hstore := s.storeTx_txSlot c d (encodeTrain p a tlm (s.motor m).cls (s.motor m).bidir) (encodeTrain_length ..).le i
  simpa only [State.txSlot, State.storeTx_txBuf, startTransmission_txBuf, encodeTrain_length, i.isLt, and_true] using hstore

/-- A started transmission writes records, the transmit buffer, the transmission in flight and the trace, and nothing else. -/
theorem startTransmission_frame (p : Params) (m : MotIdx) (c : Chan) (a : Nat) (tlm : Bool) (s : State) :
    startTransmission p m c a tlm s =
      { s with
        mot := (startTransmission p m c a tlm s).mot
        txBuf := (startTransmission p m c a tlm s).txBuf
        txFlight := (startTransmission p m c a tlm s).txFlight
        trace := (startTransmission p m c a tlm s).trace } := by
  obtain ⟨hpool, htxMap, hrxMap, htxSt, hrxSt, hrxBuf, hrxLen, hrxOwn, hrxArmed, hinputs, hresponses, hchoices⟩ :=
    startTransmission_rest p m c a tlm s
  rw [← hpool, ← htxMap, ← hrxMap, ← htxSt, ← hrxSt, ← hrxBuf, ← hrxLen, ← hrxOwn, ← hrxArmed, ← hinputs,
    ← hresponses, ← hchoices]

@[simp] theorem State.respond_txSlot (s : State) (w : Word) (c : Chan) (i : Fin nSlots) :
    (s.respond w).txSlot c i = s.txSlot c i := rfl

/-- A started transmission with its response 0 has the whole effect of R212. -/
theorem startTransmission_transmits (p : Params) (m : MotIdx) (c : Chan) (a : Nat) (tlm : Bool) (s : State) :
    Transmits p m c a tlm s ((startTransmission p m c a tlm s).respond 0#32) where
  record := by rw [State.respond_motor, startTransmission_motor, if_pos rfl]
  others j hj := by rw [State.respond_motor, startTransmission_motor, if_neg hj]
  actions := by rw [State.respond_trace, startTransmission_trace]
  loaded i := by rw [State.respond_txSlot, startTransmission_txSlot, if_pos rfl]
  elsewhere d hd i := by rw [State.respond_txSlot, startTransmission_txSlot, if_neg hd]
  flying d := by rw [State.respond_inFlight, startTransmission_inFlight]
  response := by rw [State.respond_responses, startTransmission_frame]
  rest := by
    generalize ht : startTransmission p m c a tlm s = t
    have hframe := ht ▸ startTransmission_frame p m c a tlm s
    rw [hframe]
    rfl

/-- Settles O34: THROTTLE is SEND of the offset value. -/
theorem throttleTransmitsTheOffsetValue : Obligations.ThrottleTransmitsTheOffsetValue := by
  intro m tlm th s k c hm hk hb hs hc
  exact ⟨_, sendOp_starts Config.params (throttleValue th) tlm (motorOf_eq_some.2 ⟨hm, hk⟩) hb hs hc,
    startTransmission_transmits Config.params k c _ tlm s⟩

/-! ### Class codes and slot words -/

/-- Settles O13: a code of at most 7 fits the three bits of a class. -/
theorem classCodeIsNormalised : Obligations.ClassCodeIsNormalised := by
  intro p code
  constructor
  · intro h
    rw [normClass, if_pos h, BitVec.toNat_setWidth, Nat.mod_eq_of_lt (by omega)]
  · intro h
    exact if_neg (by omega)

@[simp] theorem packSlot_dur0 (x : Slot) : (packSlot x).extractLsb' 0 15 = x.dur0 := BitVec.extractLsb'_append_eq_right

@[simp] theorem packSlot_dur1 (x : Slot) : (packSlot x).extractLsb' 16 15 = x.dur1 := by
  rw [packSlot, BitVec.extractLsb'_append_eq_of_le (by decide), BitVec.extractLsb'_append_eq_of_le (by decide)]
  exact BitVec.extractLsb'_append_eq_right

theorem packSlot_lvl0 (x : Slot) : (packSlot x).getLsbD 15 = x.lvl0 := by
  simp only [packSlot, BitVec.getLsbD_append]
  simp

theorem packSlot_lvl1 (x : Slot) : (packSlot x).getLsbD 31 = x.lvl1 := by
  simp only [packSlot, BitVec.getLsbD_append]
  simp

@[simp] theorem unpackSlot_packSlot (x : Slot) : unpackSlot (packSlot x) = x := by
  simp only [unpackSlot, packSlot_dur0, packSlot_dur1, packSlot_lvl0, packSlot_lvl1]

/-- One bit of a word is the piece of length 1 at its place. -/
theorem ofBool_getLsbD {n : Nat} (w : BitVec n) (i : Nat) : BitVec.ofBool (w.getLsbD i) = w.extractLsb' i 1 :=
  BitVec.eq_of_getLsbD_eq fun j hj => by
    obtain rfl : j = 0 := by omega
    simp

/-- The four pieces stand side by side and fill the word. -/
@[simp] theorem packSlot_unpackSlot (w : SlotWord) : packSlot (unpackSlot w) = w := by
  simp only [packSlot, unpackSlot, ofBool_getLsbD]
  rw [BitVec.extractLsb'_append_extractLsb'_eq_extractLsb' (by decide),
    BitVec.extractLsb'_append_extractLsb'_eq_extractLsb' (by decide),
    BitVec.extractLsb'_append_extractLsb'_eq_extractLsb' (by decide)]
  exact BitVec.extractLsb'_eq_self

/-- Settles O14: packing and unpacking are inverse, field by field. -/
theorem slotWordHoldsTwoHalves : Obligations.SlotWordHoldsTwoHalves :=
  ⟨fun x => ⟨packSlot_dur0 x, packSlot_lvl0 x, packSlot_dur1 x, packSlot_lvl1 x, unpackSlot_packSlot x⟩, packSlot_unpackSlot⟩

/-! ### The GCR table -/

/-- The table gives each nibble back from its code. -/
theorem gcrRev_gcrFwd : ∀ n : BitVec 4, gcrRev (gcrFwd n) = some n := by decide

/-- A code that stands for a nibble is that nibble's code. -/
theorem gcrFwd_of_gcrRev {code : BitVec 5} {n : BitVec 4} (h : gcrRev code = some n) : code = gcrFwd n := by
  revert code n
  decide

/-- Settles O21: the table and the forward map are inverse on the sixteen codes. -/
theorem gcrTableInvertsTheForwardMap : Obligations.GcrTableInvertsTheForwardMap := by
  refine ⟨by decide, fun code n => ⟨gcrFwd_of_gcrRev, ?_⟩, by decide⟩
  rintro rfl
  exact gcrRev_gcrFwd n

end Sys2Proof.Machine
end

section
/-!
The Mode Timing Table (spec/40_timing_table.md R130, R135): the terms of MININTERVAL.
-/

namespace Sys2Proof.Machine

/-! ### The length of a frame -/

/-- The ceiling of a rational quotient is the ceiling division: both are the least `c` with `a ≤ b * c`. -/
theorem natCeil_div_eq_ceilDiv (a : Nat) {b : Nat} (hb : 0 < b) : ⌈(a : ℚ) / b⌉₊ = a ⌈/⌉ b := by
  refine eq_of_forall_ge_iff fun c => ?_
  rw [Nat.ceil_le, div_le_iff₀' (Nat.cast_pos.2 hb), ceilDiv_le_iff_le_mul hb]
  norm_cast

/-- The integer formula of `frameNs` is a ceiling division. -/
theorem frameNs_eq_ceilDiv {p : Params} (hden : 0 < p.tickDen) (cls : SpeedClass) :
    frameNs p cls = (16 * (p.timing cls).tpb * p.tickNum) ⌈/⌉ p.tickDen := by
  rw [frameNs, timingOf, Nat.ceilDiv_eq_add_pred_div, Nat.add_sub_assoc hden]

/-- A frame lasts sixteen bits of `tpb` ticks each, in nanoseconds, rounded up. -/
theorem frameNs_eq_ceil {p : Params} (hden : 0 < p.tickDen) (cls : SpeedClass) :
    (frameNs p cls : Int) = ⌈(16 * ((p.timing cls).tpb : ℚ)) * ((p.tickNum : ℚ) / (p.tickDen : ℚ))⌉ := by
  have hquot : (16 * ((p.timing cls).tpb : ℚ)) * ((p.tickNum : ℚ) / (p.tickDen : ℚ)) =
      ((16 * (p.timing cls).tpb * p.tickNum : Nat) : ℚ) / p.tickDen := by
    push_cast
    rw [mul_div_assoc]
  rw [hquot, frameNs_eq_ceilDiv hden, ← natCeil_div_eq_ceilDiv _ hden]
  exact Int.natCast_ceil_eq_ceil (by positivity)

/-! ### The minimum interval -/

/-- Settles O10: the frame's term is the rational ceiling, and the gap and the reply window are the two other terms. -/
theorem minIntervalIsFrameGapAndReply : Obligations.MinIntervalIsFrameGapAndReply := by
  intro p cls hp
  rw [← frameNs_eq_ceil hp.tickDen, minInterval, classBidir]
  push_cast
  rfl

end Sys2Proof.Machine
end

section
/-!
The Protocol Codec's encoder (spec/41_encoder.md R141 to R145): the checksum, the frame and its fields, the slots of a train, the frame
read back from it, and what the peripheral plays of it.
-/

namespace Sys2Proof.Machine

/-! ### The checksum -/

theorem checksum_false (v12 : Payload) :
    checksum v12 false = v12.extractLsb' 8 4 ^^^ v12.extractLsb' 4 4 ^^^ v12.extractLsb' 0 4 := rfl

theorem checksum_true (v12 : Payload) : checksum v12 true = ~~~ checksum v12 false := rfl

/-- A nibble is a shift cut to four bits, and the cut commutes with the XOR. -/
theorem checksum_false_toNat (v12 : Payload) :
    (checksum v12 false).toNat = (v12.toNat ^^^ (v12.toNat >>> 4) ^^^ (v12.toNat >>> 8)) % 16 := by
  have hcut := @Nat.xor_mod_two_pow (n := 4)
  calc (checksum v12 false).toNat
      = (v12.toNat >>> 8) % 2 ^ 4 ^^^ (v12.toNat >>> 4) % 2 ^ 4 ^^^ v12.toNat % 2 ^ 4 := by
        simp only [checksum_false, BitVec.toNat_xor, BitVec.extractLsb'_toNat, Nat.shiftRight_zero]
    _ = (v12.toNat >>> 8 ^^^ v12.toNat >>> 4 ^^^ v12.toNat) % 2 ^ 4 := by rw [hcut, hcut]
    _ = (v12.toNat ^^^ (v12.toNat >>> 4) ^^^ (v12.toNat >>> 8)) % 2 ^ 4 := by
        rw [Nat.xor_comm _ v12.toNat, Nat.xor_comm (v12.toNat >>> 8), Nat.xor_assoc]

theorem xor_not_self_eq_allOnes {n : Nat} (x : BitVec n) : x ^^^ ~~~x = BitVec.allOnes n := by
  rw [← BitVec.xor_allOnes, ← BitVec.xor_assoc, BitVec.xor_self, BitVec.zero_xor]

/-- Settles O11: the three nibbles' XOR is the checksum itself, so the fourth cancels it or, inverted, leaves all ones. -/
theorem checksumFoldsThreeNibbles : Obligations.ChecksumFoldsThreeNibbles := by
  intro v12
  refine ⟨checksum_false_toNat v12, checksum_true v12, ?_, ?_⟩
  · rw [← checksum_false, BitVec.xor_self]
  · rw [← checksum_false, checksum_true, xor_not_self_eq_allOnes]
    rfl

/-! ### The frame and its fields -/

/-- Appending a low part is multiplying by its range and adding. -/
theorem toNat_append_eq_add {m n : Nat} (x : BitVec m) (y : BitVec n) : (x ++ y).toNat = x.toNat * 2 ^ n + y.toNat := by
  rw [BitVec.toNat_append, ← Nat.shiftLeft_add_eq_or_of_lt y.isLt, Nat.shiftLeft_eq]

@[simp] theorem clampValue_toNat (a : Nat) : (clampValue a).toNat = min a 2047 :=
  Nat.mod_eq_of_lt (by omega)

theorem payload_toNat (a : Nat) (tlm : Bool) : (payload a tlm).toNat = 2 * min a 2047 + tlm.toNat := by
  rw [payload, toNat_append_eq_add, clampValue_toNat, BitVec.toNat_ofBool]
  omega

theorem payload_eq_ofNat (a : Nat) (tlm : Bool) : payload a tlm = BitVec.ofNat 12 (2 * min a 2047 + tlm.toNat) := by
  rw [← payload_toNat, BitVec.ofNat_toNat, BitVec.setWidth_eq]

/-- Settles O12: the checksum stands below the payload, and the payload is the clamped value and the flag. -/
theorem frameIsValueFlagAndChecksum : Obligations.FrameIsValueFlagAndChecksum := by
  intro a tlm bidir
  rw [frame, toNat_append_eq_add, payload_toNat, ← payload_eq_ofNat]
  rfl

@[simp] theorem frame_payload (a : Nat) (tlm bidir : Bool) : (frame a tlm bidir).extractLsb' 4 12 = payload a tlm :=
  BitVec.extractLsb'_append_eq_left

@[simp] theorem frame_checksum (a : Nat) (tlm bidir : Bool) :
    (frame a tlm bidir).extractLsb' 0 4 = checksum (payload a tlm) bidir :=
  BitVec.extractLsb'_append_eq_right

@[simp] theorem frame_value (a : Nat) (tlm bidir : Bool) : (frame a tlm bidir).extractLsb' 5 11 = clampValue a := by
  rw [frame, BitVec.extractLsb'_append_eq_of_le (by decide)]
  exact BitVec.extractLsb'_append_eq_left

@[simp] theorem frame_flag (a : Nat) (tlm bidir : Bool) : (frame a tlm bidir).getLsbD 4 = tlm := by
  rw [frame, BitVec.getLsbD_append, if_neg (by decide), payload, BitVec.getLsbD_append, if_pos (by decide)]
  simp

/-! ### The slots of a train -/

theorem encodeTrain_eq (p : Params) (a : Nat) (tlm : Bool) (cls : SpeedClass) (bidir : Bool) :
    encodeTrain p a tlm cls bidir = trainOf (p.timing cls) (frame a tlm bidir) bidir := rfl

/-- The word of slot `i` of a train. -/
theorem trainOf_getElem? (t : Timing) (f : Frame) (bidir : Bool) {i : Nat} (hi : i < 16) :
    (trainOf t f bidir)[i]? = some (packSlot (trainSlot t f bidir i)) := by
  simp [trainOf, List.getElem?_range hi]

@[simp] theorem trainSlot_lvl0 (t : Timing) (f : Frame) (bidir : Bool) (i : Nat) : (trainSlot t f bidir i).lvl0 = !bidir := rfl

@[simp] theorem trainSlot_lvl1 (t : Timing) (f : Frame) (bidir : Bool) (i : Nat) : (trainSlot t f bidir i).lvl1 = bidir :=
  Bool.not_not bidir

/-- The leading half of a bit is at least a tick and leaves at least a tick to the trailing half. -/
theorem leadTicks_bounds {t : Timing} (h : t.Admissible) (bit : Bool) : 0 < leadTicks t bit ∧ leadTicks t bit < t.tpb := by
  obtain ⟨h0, h0t, h1, h1t, -⟩ := h
  cases bit with
  | false => exact ⟨h0, h0t⟩
  | true => exact ⟨h1, h1t⟩

/-- The leading duration tells the bit. -/
theorem leadTicks_eq_t1h_iff {t : Timing} (h : t.Admissible) (bit : Bool) : leadTicks t bit = t.t1h ↔ bit = true := by
  obtain ⟨-, -, -, -, -, -, hne⟩ := h
  cases bit with
  | false => simpa [leadTicks] using hne
  | true => simp [leadTicks]

/-- An admissible leading duration fits its 15 bits. -/
theorem trainSlot_dur0_toNat {t : Timing} (h : t.Admissible) (f : Frame) (bidir : Bool) (i : Nat) :
    (trainSlot t f bidir i).dur0.toNat = leadTicks t (f.getLsbD (15 - i)) := by
  have hlead := leadTicks_bounds h (f.getLsbD (15 - i))
  obtain ⟨-, -, -, -, htpb, -⟩ := h
  exact Nat.mod_eq_of_lt (by omega)

/-- An admissible trailing duration fits its 15 bits. -/
theorem trainSlot_dur1_toNat {t : Timing} (h : t.Admissible) (f : Frame) (bidir : Bool) (i : Nat) :
    (trainSlot t f bidir i).dur1.toNat = if i = 15 then 0 else t.tpb - leadTicks t (f.getLsbD (15 - i)) := by
  obtain ⟨-, -, -, -, htpb, -⟩ := h
  unfold trainSlot
  split
  · rfl
  · exact Nat.mod_eq_of_lt (by omega)

/-- Settles O15: word `i` is the packed slot `i`, whose fields are read off. -/
theorem encodeBuildsSixteenSlots : Obligations.EncodeBuildsSixteenSlots := by
  intro p a tlm cls bidir hp
  refine ⟨encodeTrain_length p a tlm cls bidir, fun i hi => ⟨_, trainOf_getElem? _ _ _ hi, ?_⟩⟩
  rw [unpackSlot_packSlot]
  exact ⟨trainSlot_lvl0 _ _ _ _, trainSlot_lvl1 _ _ _ _, trainSlot_dur0_toNat (hp.timing cls) _ _ _,
    trainSlot_dur1_toNat (hp.timing cls) _ _ _⟩

/-! ### The frame read back from its train -/

/-- One more bit of a number, read from the top. -/
theorem div_two_pow_eq_add_testBit (x k : Nat) : x / 2 ^ k = 2 * (x / 2 ^ (k + 1)) + (x.testBit k).toNat := by
  rw [Nat.toNat_testBit, Nat.pow_succ, ← Nat.div_div_eq_div_mul, Nat.div_add_mod]

/-- The first `n` bits of a frame, folded in from bit 15 down, are the frame without its low `16 - n` bits. -/
theorem foldl_frame_bits (f : Frame) {n : Nat} (hn : n ≤ 16) :
    (List.range n).foldl (fun acc i => 2 * acc + (f.getLsbD (15 - i)).toNat) 0 = f.toNat / 2 ^ (16 - n) := by
  induction n with
  | zero => exact (Nat.div_eq_of_lt f.isLt).symm
  | succ n ih =>
    have hk : 16 - n = 15 - n + 1 := by omega
    rw [List.range_succ, List.foldl_append, ih (by omega), List.foldl_cons, List.foldl_nil, hk, BitVec.getLsbD,
      ← div_two_pow_eq_add_testBit, show 16 - (n + 1) = 15 - n by omega]

/-- Comparing each leading duration with `t1h` reads the frame's bits, so the fold is the frame. -/
theorem recoverFrame_trainOf {t : Timing} (h : t.Admissible) (f : Frame) (bidir : Bool) :
    recoverFrame t (trainOf t f bidir) = f := by
  have hbits := foldl_frame_bits f (Nat.le_refl 16)
  simp only [recoverFrame, trainOf, List.foldl_map, unpackSlot_packSlot, trainSlot_dur0_toNat h, leadTicks_eq_t1h_iff h,
    Bool.decide_eq_true]
  rw [hbits, Nat.sub_self, Nat.pow_zero, Nat.div_one, BitVec.ofNat_toNat, BitVec.setWidth_eq]

/-- Settles O16: the train gives its frame, and each field of the frame is the part it was built from. -/
theorem trainGivesItsFrameBack : Obligations.TrainGivesItsFrameBack := by
  intro p a tlm cls bidir hp
  refine ⟨recoverFrame_trainOf (hp.timing cls) _ _, frame_flag a tlm bidir, ?_, fun ha => ?_⟩
  · rw [frame_checksum, frame_payload]
  · rw [frame_value, clampValue_toNat, Nat.min_eq_left ha]

/-! ### What the peripheral plays of a train -/

/-- The leading half of a slot word: level and duration. -/
def leadHalf (w : SlotWord) : Bool × Nat := ((unpackSlot w).lvl0, (unpackSlot w).dur0.toNat)

/-- The trailing half of a slot word: level and duration. -/
def trailHalf (w : SlotWord) : Bool × Nat := ((unpackSlot w).lvl1, (unpackSlot w).dur1.toNat)

@[simp] theorem halves_nil : halves [] = [] := rfl

@[simp] theorem halves_cons (w : SlotWord) (ws : List SlotWord) : halves (w :: ws) = leadHalf w :: trailHalf w :: halves ws := rfl

theorem halves_append (ws ws' : List SlotWord) : halves (ws ++ ws') = halves ws ++ halves ws' := List.flatMap_append

theorem mem_halves {x : Bool × Nat} {ws : List SlotWord} : x ∈ halves ws ↔ ∃ w ∈ ws, x = leadHalf w ∨ x = trailHalf w := by
  induction ws with
  | nil => simp
  | cons w ws ih => simp [ih, or_assoc]

/-- Half `2 * i` is the leading half of slot `i`, and half `2 * i + 1` its trailing half. -/
theorem halves_getElem? (ws : List SlotWord) (i : Nat) :
    (halves ws)[2 * i]? = ws[i]?.map leadHalf ∧ (halves ws)[2 * i + 1]? = ws[i]?.map trailHalf := by
  induction ws generalizing i with
  | nil => simp
  | cons w ws ih =>
    cases i with
    | zero => simp
    | succ i => simpa [Nat.mul_succ] using ih i

theorem halves_length (ws : List SlotWord) : (halves ws).length = 2 * ws.length := by
  induction ws with
  | nil => rfl
  | cons w ws ih => simp [ih, Nat.mul_succ]

/-- Slots that each last `n` ticks together last `n` ticks for each. -/
theorem halves_ticks {n : Nat} {ws : List SlotWord} (h : ∀ w ∈ ws, (leadHalf w).2 + (trailHalf w).2 = n) :
    ((halves ws).map Prod.snd).sum = ws.length * n := by
  induction ws with
  | nil => simp
  | cons w ws ih =>
    rw [List.forall_mem_cons] at h
    simp only [halves_cons, List.map_cons, List.sum_cons, ih h.2, List.length_cons, Nat.succ_mul, ← h.1]
    omega

section

variable {t : Timing} (h : t.Admissible) (f : Frame) (bidir : Bool)

/-- The slots of a train before its last one: those with two halves that last. -/
def slotsBeforeLast (t : Timing) (f : Frame) (bidir : Bool) : List SlotWord :=
  (List.range 15).map fun i => packSlot (trainSlot t f bidir i)

theorem trainOf_eq_append :
    trainOf t f bidir = slotsBeforeLast t f bidir ++ [packSlot (trainSlot t f bidir 15)] := by
  rw [trainOf, show nSlots = 15 + 1 from rfl, List.range_succ, List.map_append]
  rfl

include h

theorem leadHalf_trainSlot (i : Nat) :
    leadHalf (packSlot (trainSlot t f bidir i)) = (!bidir, leadTicks t (f.getLsbD (15 - i))) := by
  rw [leadHalf, unpackSlot_packSlot, trainSlot_lvl0, trainSlot_dur0_toNat h]

theorem trailHalf_trainSlot (i : Nat) :
    trailHalf (packSlot (trainSlot t f bidir i)) = (bidir, if i = 15 then 0 else t.tpb - leadTicks t (f.getLsbD (15 - i))) := by
  rw [trailHalf, unpackSlot_packSlot, trainSlot_lvl1, trainSlot_dur1_toNat h]

/-- Both halves of a slot before the last one last, together for one bit. -/
theorem slotsBeforeLast_ticks {w : SlotWord} (hw : w ∈ slotsBeforeLast t f bidir) :
    (leadHalf w).2 ≠ 0 ∧ (trailHalf w).2 ≠ 0 ∧ (leadHalf w).2 + (trailHalf w).2 = t.tpb := by
  obtain ⟨i, hi, rfl⟩ := List.mem_map.1 hw
  have hlead := leadTicks_bounds h (f.getLsbD (15 - i))
  have hlast : i ≠ 15 := Nat.ne_of_lt (List.mem_range.1 hi)
  simp only [leadHalf_trainSlot h, trailHalf_trainSlot h, if_neg hlast]
  omega

/-- The last slot has the leading half of bit 0 and a trailing half of duration 0. -/
theorem halves_lastSlot :
    halves [packSlot (trainSlot t f bidir 15)] = [(!bidir, leadTicks t (f.getLsbD 0)), (bidir, 0)] := by
  rw [halves_cons, halves_nil, leadHalf_trainSlot h, trailHalf_trainSlot h, if_pos rfl]

/-- The peripheral plays every half but the trailing one of the last slot, whose duration is 0. -/
theorem lineSignal_trainOf :
    lineSignal (trainOf t f bidir) = halves (slotsBeforeLast t f bidir) ++ [(!bidir, leadTicks t (f.getLsbD 0))] := by
  have hlast : leadTicks t (f.getLsbD 0) ≠ 0 := (leadTicks_bounds h (f.getLsbD 0)).1.ne'
  have hbefore : ∀ x ∈ halves (slotsBeforeLast t f bidir), decide (x.2 ≠ 0) = true := by
    intro x hx
    obtain ⟨w, hw, rfl | rfl⟩ := mem_halves.1 hx
    · exact decide_eq_true (slotsBeforeLast_ticks h f bidir hw).1
    · exact decide_eq_true (slotsBeforeLast_ticks h f bidir hw).2.1
  rw [lineSignal, trainOf_eq_append, halves_append, List.takeWhile_append_of_pos hbefore, halves_lastSlot h,
    List.takeWhile_cons_of_pos (by exact decide_eq_true hlast), List.takeWhile_cons_of_neg (by simp)]

theorem lineSignal_trainOf_length : (lineSignal (trainOf t f bidir)).length = 31 := by
  simp [lineSignal_trainOf h, halves_length, slotsBeforeLast]

/-- The 31 halves played are the train's own, in their places. -/
theorem lineSignal_trainOf_getElem? {j : Nat} (hj : j < 31) :
    (lineSignal (trainOf t f bidir))[j]? = (halves (trainOf t f bidir))[j]? := by
  have hhalves : halves (trainOf t f bidir) = lineSignal (trainOf t f bidir) ++ [(bidir, 0)] := by
    rw [lineSignal_trainOf h, trainOf_eq_append, halves_append, halves_lastSlot h, List.append_assoc]
    rfl
  rw [hhalves, List.getElem?_append_left (by rwa [lineSignal_trainOf_length h])]

theorem playedTicks_trainOf : playedTicks (trainOf t f bidir) = 15 * t.tpb + leadTicks t (f.getLsbD 0) := by
  have hbefore := halves_ticks fun w hw => (slotsBeforeLast_ticks h f bidir (w := w) hw).2.2
  rw [playedTicks, lineSignal_trainOf h, List.map_append, List.sum_append, hbefore]
  simp [slotsBeforeLast]

end

/-- Settles O17: the halves played are those of the slots, and fifteen slots last a whole bit each. -/
theorem trainPlaysWholeOnTheLine : Obligations.TrainPlaysWholeOnTheLine := by
  intro p a tlm cls bidir hp
  have ht := hp.timing cls
  rw [encodeTrain_eq]
  refine ⟨lineSignal_trainOf_length ht _ _, fun i hi => ?_, fun i hi => ?_, playedTicks_trainOf ht _ _⟩
  · rw [lineSignal_trainOf_getElem? ht _ _ (by omega), (halves_getElem? _ _).1, trainOf_getElem? _ _ _ hi, Option.map_some,
      leadHalf_trainSlot ht]
    rfl
  · rw [lineSignal_trainOf_getElem? ht _ _ (by omega), (halves_getElem? _ _).2, trainOf_getElem? _ _ _ (by omega),
      Option.map_some, trailHalf_trainSlot ht, if_neg (by omega)]
    rfl

end Sys2Proof.Machine
end

section
/-!
The Bidirectional Telemetry Decoder (spec/42_decoder.md R162 to R182): the bits of a capture, DECODE and its results, the
reply DECODE recovers, CLASSIFY, and TLM_UPDATE.
-/

namespace Sys2Proof.Machine

/-! ### The run length -/

/-- Settles O18: the bounds are those of the quotient, spelt without the division. -/
theorem runLengthRoundsToNearest : Obligations.RunLengthRoundsToNearest := by
  intro bitNs dur k hpos
  have hlow : k * (2 * bitNs) = 2 * k * bitNs := by ring
  have hhigh : (2 * k + 1) * bitNs = 2 * k * bitNs + bitNs := by ring
  rw [runLength, Nat.div_eq_iff (by omega), hlow, hhigh]
  omega

/-- A run off by less than half a bit period keeps its length, and the bound leaves neither the period nor the duration zero. -/
theorem runLength_of_jitter {bitNs dur n : Nat} (hlow : 2 * (n * bitNs) < 2 * dur + bitNs)
    (hhigh : 2 * dur < 2 * (n * bitNs) + bitNs) : runLength bitNs dur = n := by
  have hpos : 0 < bitNs := by omega
  have hmul : 2 * n * bitNs = 2 * (n * bitNs) := Nat.mul_assoc ..
  refine (runLengthRoundsToNearest bitNs dur n hpos).2 ⟨by omega, ?_⟩
  rw [Nat.add_mul, Nat.one_mul, hmul]
  exact hhigh

/-! ### The bits of a capture -/

/-- Bits folded into a number from the most significant end, below the bits of `acc`. -/
def foldBits (acc : Nat) (bs : List Bool) : Nat := bs.foldl (fun a b => 2 * a + b.toNat) acc

theorem foldBits_append (acc : Nat) (bs bs' : List Bool) : foldBits acc (bs ++ bs') = foldBits (foldBits acc bs) bs' :=
  List.foldl_append

theorem appendRun_eq_foldBits (acc : Nat) (level : Bool) (r : Nat) :
    appendRun acc level r = foldBits acc (List.replicate r level) := by
  induction r generalizing acc with
  | zero => rfl
  | succ r ih => exact ih _

/-- The last bit folded in is bit 0, the first the highest. -/
theorem testBit_foldBits (bs : List Bool) {i : Nat} (hi : i < bs.length) :
    (foldBits 0 bs).testBit (bs.length - 1 - i) = bs[i] := by
  induction bs using List.reverseRecOn with
  | nil => exact absurd hi (Nat.not_lt_zero i)
  | append_singleton bs b ih =>
    have hfold : foldBits 0 (bs ++ [b]) = Nat.bit b (foldBits 0 bs) := by
      rw [foldBits_append, Nat.bit_val]; rfl
    rw [List.length_append, List.length_singleton] at hi ⊢
    rw [hfold, Nat.add_sub_cancel]
    obtain hlt | rfl : i < bs.length ∨ i = bs.length := by omega
    · rw [show bs.length - i = bs.length - 1 - i + 1 by omega, Nat.testBit_bit_succ, ih hlt, List.getElem_append_left hlt]
    · rw [Nat.sub_self, Nat.testBit_bit_zero, List.getElem_concat_length rfl]

/-- The bit times a capture spells, uncut: the runs of the pairs before the first of duration 0 (R163, R164). -/
def captureBits (bitNs : Nat) (cap : List CapPair) : List Bool :=
  (cap.takeWhile fun q => decide (q.dur ≠ 0#32)).flatMap fun q => List.replicate (runLength bitNs q.dur.toNat) q.level

@[simp] theorem captureBits_nil (bitNs : Nat) : captureBits bitNs [] = [] := rfl

theorem captureBits_cons_of_zero (bitNs : Nat) {q : CapPair} (h : q.dur = 0#32) (qs : List CapPair) :
    captureBits bitNs (q :: qs) = [] := by
  simp [captureBits, h]

theorem captureBits_cons_of_ne_zero (bitNs : Nat) {q : CapPair} (h : q.dur ≠ 0#32) (qs : List CapPair) :
    captureBits bitNs (q :: qs) = List.replicate (runLength bitNs q.dur.toNat) q.level ++ captureBits bitNs qs := by
  simp [captureBits, h]

/-- Step 2 folds the bit times of the capture in until there are 21 (R163, R164, R166). -/
theorem accumulate_eq (bitNs : Nat) (cap : List CapPair) (acc : Nat) {cnt : Nat} (hcnt : cnt ≤ 21) :
    accumulate bitNs cap acc cnt =
      (foldBits acc ((captureBits bitNs cap).take (21 - cnt)), cnt + ((captureBits bitNs cap).take (21 - cnt)).length) := by
  induction cap generalizing acc cnt with
  | nil => simp [accumulate, foldBits]
  | cons q qs ih =>
    rw [accumulate]
    by_cases hfull : 21 ≤ cnt
    · rw [if_pos (.inl hfull), Nat.sub_eq_zero_of_le hfull]
      rfl
    by_cases hdur : q.dur = 0#32
    · rw [if_pos (.inr hdur), captureBits_cons_of_zero bitNs hdur, List.take_nil]
      rfl
    rw [if_neg (not_or.2 ⟨hfull, hdur⟩), ih _ (by omega), appendRun_eq_foldBits, captureBits_cons_of_ne_zero bitNs hdur,
      List.take_append, List.take_replicate, foldBits_append, List.length_append, List.length_replicate, List.length_replicate,
      Nat.min_comm, Nat.add_assoc, Nat.sub_add_eq,
      show 21 - cnt - min (21 - cnt) (runLength bitNs q.dur.toNat) = 21 - cnt - runLength bitNs q.dur.toNat by omega]

/-- Padding puts the first of at most 21 bits at bit 20 and ones below the last (R167). -/
theorem getLsbD_padRaw_foldBits {bs : List Bool} (hlen : bs.length ≤ 21) {i : Nat} (hi : i < 21) :
    (padRaw (foldBits 0 bs) bs.length).getLsbD (20 - i) = bs.getD i true := by
  rw [padRaw, BitVec.getLsbD_ofNat, Nat.testBit_or, Nat.testBit_shiftLeft, Nat.one_shiftLeft, Nat.testBit_two_pow_sub_one,
    decide_eq_true (show 20 - i < 21 by omega), Bool.true_and]
  by_cases hin : i < bs.length
  · rw [decide_eq_true (show 20 - i ≥ 21 - bs.length by omega), decide_eq_false (show ¬ 20 - i < 21 - bs.length by omega),
      show 20 - i - (21 - bs.length) = bs.length - 1 - i by omega, testBit_foldBits bs hin, Bool.true_and, Bool.or_false,
      List.getD_eq_getElem _ _ hin]
  · rw [decide_eq_true (show 20 - i < 21 - bs.length by omega), Bool.or_true, List.getD_eq_default _ _ (Nat.le_of_not_lt hin)]

/-- Settles O20: step 2 folds the capture's bit times, cut at 21, and step 3 pads them. -/
theorem rawReplyIsTheRunsThenOnes : Obligations.RawReplyIsTheRunsThenOnes := by
  intro bitNs cap i hi
  rw [accumulate_eq bitNs cap 0 (Nat.zero_le 21), Nat.zero_add]
  exact getLsbD_padRaw_foldBits (List.length_take_le _ _) hi

/-! ### The windows and the checksum -/

theorem remap_of_windows {g : BitVec 20} {n3 n2 n1 n0 : BitVec 4} (h3 : gcrRev (gcrWindow g 3) = some n3)
    (h2 : gcrRev (gcrWindow g 2) = some n2) (h1 : gcrRev (gcrWindow g 1) = some n1) (h0 : gcrRev (gcrWindow g 0) = some n0) :
    remap g = some (n3 ++ n2 ++ n1 ++ n0) := by
  rw [remap, h3, h2, h1, h0]

theorem remap_of_invalid {g : BitVec 20} {k : Nat} (hk : k < 4) (h : gcrRev (gcrWindow g k) = none) : remap g = none := by
  unfold remap
  split
  · next h3 h2 h1 h0 =>
    interval_cases k
    · exact absurd h (by rw [h0]; nofun)
    · exact absurd h (by rw [h1]; nofun)
    · exact absurd h (by rw [h2]; nofun)
    · exact absurd h (by rw [h3]; nofun)
  · rfl

/-- Step 5 fails exactly on an invalid window (R171). -/
theorem remap_eq_none_iff {g : BitVec 20} : remap g = none ↔ ∃ k, k < 4 ∧ gcrRev (gcrWindow g k) = none := by
  refine ⟨fun h => ?_, fun ⟨k, hk, hnone⟩ => remap_of_invalid hk hnone⟩
  by_contra hvalid
  have hsome : ∀ k, k < 4 → ∃ n, gcrRev (gcrWindow g k) = some n := fun k hk =>
    Option.ne_none_iff_exists'.1 fun hnone => hvalid ⟨k, hk, hnone⟩
  obtain ⟨n3, h3⟩ := hsome 3 (by decide)
  obtain ⟨n2, h2⟩ := hsome 2 (by decide)
  obtain ⟨n1, h1⟩ := hsome 1 (by decide)
  obtain ⟨n0, h0⟩ := hsome 0 (by decide)
  rw [remap_of_windows h3 h2 h1 h0] at h
  exact Option.some_ne_none _ h

/-- The inverted checksum of three nibbles is their inverted XOR (R141, R172). -/
theorem checksum_append_true (n3 n2 n1 : BitVec 4) : checksum (n3 ++ n2 ++ n1) true = ~~~(n3 ^^^ n2 ^^^ n1) := by
  have h2 : (n3 ++ n2 ++ n1).extractLsb' 4 4 = n2 := by
    rw [BitVec.extractLsb'_append_eq_of_le (by decide)]
    exact BitVec.extractLsb'_append_eq_right
  have h3 : (n3 ++ n2 ++ n1).extractLsb' 8 4 = n3 := by
    rw [BitVec.extractLsb'_append_eq_of_le (by decide)]
    exact BitVec.extractLsb'_append_eq_left
  have h1 : (n3 ++ n2 ++ n1).extractLsb' 0 4 = n1 := BitVec.extractLsb'_append_eq_right
  rw [checksum_true, checksum_false, h1, h2, h3]

/-! ### DECODE and its results -/

section
variable {acc cnt : Nat}

theorem decodeBits_of_remap_none (h : remap (unshift (padRaw acc cnt)) = none) : decodeBits acc cnt = .badGcr := by
  rw [decodeBits, h]

/-- A reply word is its value and its checksum; DECODE compares the two (R172, R173). -/
theorem decodeBits_of_remap_some {v : TlmValue} {c : BitVec 4} (h : remap (unshift (padRaw acc cnt)) = some (v ++ c)) :
    decodeBits acc cnt = if c = checksum v true then .ok v else .badCsum := by
  have hvalue : (v ++ c).extractLsb' 4 12 = v := BitVec.extractLsb'_append_eq_left
  have hcheck : (v ++ c).extractLsb' 0 4 = c := BitVec.extractLsb'_append_eq_right
  simp only [decodeBits, h, hvalue, hcheck]

/-- What steps 3 to 7 can answer. -/
theorem decodeBits_answers (acc cnt : Nat) :
    (remap (unshift (padRaw acc cnt)) = none ∧ decodeBits acc cnt = .badGcr) ∨
    (remap (unshift (padRaw acc cnt)) ≠ none ∧ (decodeBits acc cnt = .badCsum ∨ ∃ v, decodeBits acc cnt = .ok v)) := by
  unfold decodeBits
  split
  · next h => exact .inl ⟨h, rfl⟩
  · next w16 h =>
    refine .inr ⟨by rw [h]; nofun, ?_⟩
    split
    · exact .inr ⟨_, rfl⟩
    · exact .inl rfl

theorem decodeBits_ne_noEdge (acc cnt : Nat) : decodeBits acc cnt ≠ .noEdge := by
  obtain ⟨-, h⟩ | ⟨-, h | ⟨v, h⟩⟩ := decodeBits_answers acc cnt <;> rw [h] <;> nofun

theorem decodeBits_eq_badGcr_iff : decodeBits acc cnt = .badGcr ↔ remap (unshift (padRaw acc cnt)) = none := by
  refine ⟨fun h => ?_, decodeBits_of_remap_none⟩
  obtain ⟨hnone, -⟩ | ⟨-, h' | ⟨v, h'⟩⟩ := decodeBits_answers acc cnt
  · exact hnone
  · rw [h'] at h; cases h
  · rw [h'] at h; cases h

end

/-- Step 1 rejects a first pair that is high or has no duration (R162). -/
theorem decodeCapture_of_no_lead {q : CapPair} (h : q.level = true ∨ q.dur = 0#32) (qs : List CapPair) (bitNs : Nat) :
    decodeCapture (q :: qs) bitNs = .noEdge := if_pos h

/-- A leading low pulse goes on to step 2. -/
theorem decodeCapture_of_lead {q : CapPair} (hlevel : q.level = false) (hdur : q.dur ≠ 0#32) (qs : List CapPair) (bitNs : Nat) :
    decodeCapture (q :: qs) bitNs = decodeBits (accumulate bitNs (q :: qs) 0 0).1 (accumulate bitNs (q :: qs) 0 0).2 :=
  if_neg (not_or.2 ⟨by rw [hlevel]; nofun, hdur⟩)

/-- Settles O19: only step 1 answers NO_EDGE. -/
theorem noEdgeExactlyWithoutALowStart : Obligations.NoEdgeExactlyWithoutALowStart := by
  intro cap bitNs
  cases cap with
  | nil => exact ⟨fun _ => .inl rfl, fun _ => rfl⟩
  | cons q qs =>
    constructor
    · intro h
      by_contra hlead
      obtain ⟨hlevel, hdur⟩ := not_or.1 fun hno => hlead (.inr ⟨q, qs, rfl, hno⟩)
      rw [decodeCapture_of_lead (Bool.eq_false_of_not_eq_true hlevel) hdur] at h
      exact decodeBits_ne_noEdge _ _ h
    · rintro (h | ⟨q', qs', h, hno⟩)
      · cases h
      · obtain ⟨rfl, rfl⟩ := List.cons.inj h
        exact decodeCapture_of_no_lead hno _ _

/-- Settles O22: past step 1 only step 5 answers BAD_GCR. -/
theorem invalidWindowIsBadGcr : Obligations.InvalidWindowIsBadGcr := by
  intro q qs bitNs hlevel hdur
  rw [decodeCapture_of_lead hlevel hdur, decodeBits_eq_badGcr_iff, remap_eq_none_iff]

/-- Settles O23: four valid windows give the reply word, whose checksum decides. -/
theorem validWindowsAreCheckedAndReturned : Obligations.ValidWindowsAreCheckedAndReturned := by
  rintro q qs bitNs n3 n2 n1 n0 hlevel hdur ⟨h3, h2, h1, h0⟩
  have hvalue : BitVec.ofNat 12 (256 * n3.toNat + 16 * n2.toNat + n1.toNat) = n3 ++ n2 ++ n1 := by
    apply BitVec.eq_of_toNat_eq
    rw [toNat_append_eq_add, toNat_append_eq_add, BitVec.toNat_ofNat]
    omega
  rw [decodeCapture_of_lead hlevel hdur, decodeBits_of_remap_some (remap_of_windows h3 h2 h1 h0), checksum_append_true, hvalue]
  exact ⟨fun h => if_pos h, fun h => if_neg h⟩

/-! ### The runs of a reply -/

/-- The levels that runs spell. -/
def spellRuns (runs : List (Nat × Bool)) : List Bool := runs.flatMap fun r => List.replicate r.1 r.2

@[simp] theorem spellRuns_nil : spellRuns [] = [] := rfl

@[simp] theorem spellRuns_cons (r : Nat × Bool) (runs : List (Nat × Bool)) :
    spellRuns (r :: runs) = List.replicate r.1 r.2 ++ spellRuns runs := rfl

@[simp] theorem spellRuns_append (runs runs' : List (Nat × Bool)) :
    spellRuns (runs ++ runs') = spellRuns runs ++ spellRuns runs' := List.flatMap_append

/-- A level begins a run of its own or lengthens the first run of the others. -/
theorem runsOf_cons (b : Bool) (bs : List Bool) :
    runsOf (b :: bs) = (1, b) :: runsOf bs ∨
    ∃ n rest, runsOf bs = (n, b) :: rest ∧ runsOf (b :: bs) = (n + 1, b) :: rest := by
  rw [runsOf]
  split
  · next h => exact .inl (by rw [h])
  · next n l rest h =>
    split
    · next hl => exact .inr ⟨n, rest, by rw [h, hl], by rw [hl]⟩
    · exact .inl (by rw [h])

@[simp] theorem spellRuns_runsOf (bs : List Bool) : spellRuns (runsOf bs) = bs := by
  induction bs with
  | nil => rfl
  | cons b bs ih =>
    obtain h | ⟨n, rest, hrest, h⟩ := runsOf_cons b bs
    · rw [h, spellRuns_cons, ih]
      rfl
    · rw [h, ← ih, hrest, spellRuns_cons, spellRuns_cons, List.replicate_succ, List.cons_append]

theorem runsOf_pos {bs : List Bool} {r : Nat × Bool} (hr : r ∈ runsOf bs) : 0 < r.1 := by
  induction bs with
  | nil => nomatch hr
  | cons b bs ih =>
    obtain h | ⟨n, rest, hrest, h⟩ := runsOf_cons b bs <;> rw [h, List.mem_cons] at hr
    · obtain rfl | hr := hr
      · exact Nat.one_pos
      · exact ih hr
    · obtain rfl | hr := hr
      · exact Nat.succ_pos n
      · exact ih (by rw [hrest]; exact List.mem_cons_of_mem _ hr)

/-- A run stands as that many equal levels in a row. -/
theorem replicate_infix_of_mem_runsOf {bs : List Bool} {r : Nat × Bool} (hr : r ∈ runsOf bs) :
    List.replicate r.1 r.2 <:+: bs := by
  obtain ⟨before, after, h⟩ := List.append_of_mem hr
  refine ⟨spellRuns before, spellRuns after, ?_⟩
  rw [List.append_assoc, ← spellRuns_cons, ← spellRuns_append, ← h, spellRuns_runsOf]

/-- The reply's capture keeps all runs but a last high one, which the padding gives back. -/
theorem runsOf_replyLevels (v : TlmValue) :
    runsOf (replyLevels v) = replyRuns v ∨ ∃ n, runsOf (replyLevels v) = replyRuns v ++ [(n, true)] := by
  unfold replyRuns
  split
  · next n h => exact .inr ⟨n, (List.dropLast_append_getLast? _ h).symm⟩
  · exact .inl rfl

theorem mem_runsOf_of_mem_replyRuns {v : TlmValue} {r : Nat × Bool} (hr : r ∈ replyRuns v) : r ∈ runsOf (replyLevels v) := by
  obtain h | ⟨n, h⟩ := runsOf_replyLevels v <;> rw [h]
  · exact hr
  · exact List.mem_append_left _ hr

theorem replyLevels_eq_spellRuns (v : TlmValue) : ∃ n, replyLevels v = spellRuns (replyRuns v) ++ List.replicate n true := by
  obtain h | ⟨n, h⟩ := runsOf_replyLevels v
  · exact ⟨0, by rw [← h, spellRuns_runsOf]; exact (List.append_nil _).symm⟩
  · refine ⟨n, ?_⟩
    rw [← spellRuns_runsOf (replyLevels v), h, spellRuns_append, spellRuns_cons, spellRuns_nil, List.append_nil]

/-! ### The levels of a reply -/

theorem levelsAfter_length (prev : Bool) (gs : List Bool) : (levelsAfter prev gs).length = gs.length := by
  induction gs generalizing prev with
  | nil => rfl
  | cons g gs ih => rw [levelsAfter, List.length_cons, List.length_cons, ih]

theorem replyLevels_length (v : TlmValue) : (replyLevels v).length = 21 := by
  rw [replyLevels, List.length_cons, levelsAfter_length, List.length_map, List.length_range]

/-- Neighbouring levels differ exactly where the GCR bit between them is set. -/
theorem xor_levelsAfter (prev : Bool) (gs : List Bool) {i : Nat} (hi : i < gs.length) :
    ((prev :: levelsAfter prev gs).getD i true ^^ (prev :: levelsAfter prev gs).getD (i + 1) true) = gs[i] := by
  induction gs generalizing prev i with
  | nil => nomatch hi
  | cons g gs ih =>
    cases i with
    | zero => simp [levelsAfter]
    | succ i =>
      rw [levelsAfter, List.getD_cons_succ, List.getD_cons_succ, List.getElem_cons_succ]
      exact ih _ (Nat.lt_of_succ_lt_succ hi)

theorem xor_replyLevels (v : TlmValue) {i : Nat} (hi : i < 20) :
    ((replyLevels v).getD i true ^^ (replyLevels v).getD (i + 1) true) = (replyGcr v).getLsbD (19 - i) := by
  rw [replyLevels, xor_levelsAfter _ _ (by simpa using hi), List.getElem_map, List.getElem_range]

/-- Un-shifting is the XOR of neighbouring bits (R168). -/
theorem getLsbD_unshift (raw : BitVec 21) {i : Nat} (hi : i < 20) :
    (unshift raw).getLsbD i = (raw.getLsbD i ^^ raw.getLsbD (i + 1)) := by
  rw [unshift, BitVec.getLsbD_extractLsb', decide_eq_true hi, Bool.true_and, Nat.zero_add, BitVec.getLsbD_xor,
    BitVec.getLsbD_ushiftRight, Nat.add_comm 1]

/-- Un-shifting the levels of a reply gives its GCR value back (R106, R182). -/
theorem unshift_of_replyLevels {raw : BitVec 21} {v : TlmValue}
    (h : ∀ i, i < 21 → raw.getLsbD (20 - i) = (replyLevels v).getD i true) : unshift raw = replyGcr v := by
  refine BitVec.eq_of_getLsbD_eq fun i hi => ?_
  have hlow := h (20 - i) (by omega)
  have hhigh := h (19 - i) (by omega)
  rw [show 20 - (20 - i) = i by omega, show 20 - i = 19 - i + 1 by omega] at hlow
  rw [show 20 - (19 - i) = i + 1 by omega] at hhigh
  rw [getLsbD_unshift raw hi, hlow, hhigh, Bool.xor_comm, xor_replyLevels v (by omega), show 19 - (19 - i) = i by omega]

/-! ### The windows of a reply -/

/-- The nibble `k` of a reply word. -/
def replyNibble (v : TlmValue) (k : Nat) : BitVec 4 := (replyWord v).extractLsb' (4 * k) 4

theorem gcrWindow_replyGcr (v : TlmValue) {k : Nat} (hk : k < 4) : gcrWindow (replyGcr v) k = gcrFwd (replyNibble v k) := by
  have hstep : ∀ {m : Nat} (x : BitVec m) (y : BitVec 5) (j : Nat),
      (x ++ y).extractLsb' (5 * (j + 1)) 5 = x.extractLsb' (5 * j) 5 := fun x y j => by
    rw [BitVec.extractLsb'_append_eq_of_le (by omega)]; rfl
  interval_cases k
  · exact BitVec.extractLsb'_append_eq_right
  · exact (hstep _ _ 0).trans BitVec.extractLsb'_append_eq_right
  · exact (hstep _ _ 1).trans ((hstep _ _ 0).trans BitVec.extractLsb'_append_eq_right)
  · exact (hstep _ _ 2).trans ((hstep _ _ 1).trans BitVec.extractLsb'_append_eq_left)

theorem remap_replyGcr (v : TlmValue) : remap (replyGcr v) = some (replyWord v) := by
  have hcode : ∀ k, k < 4 → gcrRev (gcrWindow (replyGcr v) k) = some (replyNibble v k) := fun k hk => by
    rw [gcrWindow_replyGcr v hk, gcrRev_gcrFwd]
  rw [remap_of_windows (hcode 3 (by decide)) (hcode 2 (by decide)) (hcode 1 (by decide)) (hcode 0 (by decide))]
  congr 1
  apply BitVec.eq_of_toNat_eq
  simp only [toNat_append_eq_add, replyNibble, BitVec.extractLsb'_toNat, Nat.shiftRight_eq_div_pow]
  omega

/-- No code begins or ends with two zeros, or has three in a row. -/
theorem gcrFwd_zeros : ∀ n : BitVec 4,
    ¬ ((gcrFwd n).getLsbD 0 = false ∧ (gcrFwd n).getLsbD 1 = false) ∧
    ¬ ((gcrFwd n).getLsbD 3 = false ∧ (gcrFwd n).getLsbD 4 = false) ∧
    ¬ ((gcrFwd n).getLsbD 1 = false ∧ (gcrFwd n).getLsbD 2 = false ∧ (gcrFwd n).getLsbD 3 = false) := by decide

theorem getLsbD_replyGcr (v : TlmValue) {k : Nat} (hk : k < 4) {j : Nat} (hj : j < 5) :
    (replyGcr v).getLsbD (5 * k + j) = (gcrFwd (replyNibble v k)).getLsbD j := by
  rw [← gcrWindow_replyGcr v hk, gcrWindow, BitVec.getLsbD_extractLsb', decide_eq_true hj, Bool.true_and]

theorem replyGcr_window_zeros (v : TlmValue) {k : Nat} (hk : k < 4) :
    ¬ ((replyGcr v).getLsbD (5 * k) = false ∧ (replyGcr v).getLsbD (5 * k + 1) = false) ∧
    ¬ ((replyGcr v).getLsbD (5 * k + 3) = false ∧ (replyGcr v).getLsbD (5 * k + 4) = false) ∧
    ¬ ((replyGcr v).getLsbD (5 * k + 1) = false ∧ (replyGcr v).getLsbD (5 * k + 2) = false ∧
      (replyGcr v).getLsbD (5 * k + 3) = false) := by
  have hfirst := getLsbD_replyGcr v hk (j := 0) (by decide)
  rw [Nat.add_zero] at hfirst
  rw [hfirst, getLsbD_replyGcr v hk (by decide), getLsbD_replyGcr v hk (by decide), getLsbD_replyGcr v hk (by decide),
    getLsbD_replyGcr v hk (by decide)]
  exact gcrFwd_zeros _

/-- Three bits in a row of a reply's GCR value are never all zero: they stand inside one code, or two of them at an end of one. -/
theorem replyGcr_three_bits (v : TlmValue) {i : Nat} (hi : i < 18) :
    ¬ ((replyGcr v).getLsbD i = false ∧ (replyGcr v).getLsbD (i + 1) = false ∧ (replyGcr v).getLsbD (i + 2) = false) := by
  rintro ⟨h0, h1, h2⟩
  obtain ⟨k, j, rfl, hj⟩ : ∃ k j, i = 5 * k + j ∧ j < 5 := ⟨i / 5, i % 5, by omega, by omega⟩
  obtain ⟨hlow, hhigh, hmid⟩ := replyGcr_window_zeros v (k := k) (by omega)
  interval_cases j
  · exact hlow ⟨h0, h1⟩
  · exact hmid ⟨h0, h1, h2⟩
  · exact hhigh ⟨h1, h2⟩
  · exact hhigh ⟨h0, h1⟩
  · exact (replyGcr_window_zeros v (k := k + 1) (by omega)).1 ⟨h1, h2⟩

/-- A run of a reply is at most three bits long, since four equal levels would leave three zeros in the GCR value. -/
theorem replyRuns_le_three {v : TlmValue} {r : Nat × Bool} (hr : r ∈ replyRuns v) : r.1 ≤ 3 := by
  by_contra hlong
  obtain ⟨before, after, h⟩ := replicate_infix_of_mem_runsOf (mem_runsOf_of_mem_replyRuns hr)
  have hlen : before.length + r.1 ≤ 21 := by
    rw [← replyLevels_length v, ← h]
    simp
  have hlevel : ∀ j, j < 4 → (replyLevels v).getD (before.length + j) true = r.2 := fun j hj => by
    rw [← h, List.append_assoc, List.getD_append_right _ _ _ _ (Nat.le_add_right ..), Nat.add_sub_cancel_left,
      List.getD_append _ _ _ _ (by rw [List.length_replicate]; omega), List.getD_replicate _ (by omega)]
  have hzero : ∀ j, j < 3 → (replyGcr v).getLsbD (19 - (before.length + j)) = false := fun j hj => by
    rw [← xor_replyLevels v (by omega), Nat.add_assoc, hlevel j (by omega), hlevel (j + 1) (by omega), Bool.xor_self]
  refine replyGcr_three_bits v (i := 17 - before.length) (by omega) ⟨?_, ?_, ?_⟩
  · rw [← hzero 2 (by decide)]; congr 1; omega
  · rw [← hzero 1 (by decide)]; congr 1; omega
  · rw [← hzero 0 (by decide)]; congr 1; omega

/-! ### DECODE of a reply -/

/-- The capture holds the pairs of the runs, each off by less than half a bit period (R182 (iii)). -/
abbrev SpellsRuns (bitNs : Nat) (runs : List (Nat × Bool)) (cap : List CapPair) : Prop :=
  List.Forall₂ (fun (r : Nat × Bool) (q : CapPair) => q.level = r.2 ∧
    2 * (r.1 * bitNs) < 2 * q.dur.toNat + bitNs ∧ 2 * q.dur.toNat < 2 * (r.1 * bitNs) + bitNs) runs cap

/-- A run of at least one bit is off by too little to vanish. -/
theorem dur_ne_zero_of_jitter {bitNs n : Nat} {dur : BitVec 32} (hn : 0 < n)
    (hlow : 2 * (n * bitNs) < 2 * dur.toNat + bitNs) : dur ≠ 0#32 := by
  rintro rfl
  have hmul : 1 * bitNs ≤ n * bitNs := Nat.mul_le_mul_right bitNs hn
  rw [BitVec.toNat_zero] at hlow
  omega

/-- Such a capture spells the levels of the runs; its last pair, of duration 0, ends them. -/
theorem captureBits_of_spellsRuns {bitNs : Nat} {runs : List (Nat × Bool)} {cap : List CapPair} (h : SpellsRuns bitNs runs cap)
    (hpos : ∀ r ∈ runs, 0 < r.1) : captureBits bitNs (cap ++ [⟨0#32, true⟩]) = spellRuns runs := by
  induction h with
  | nil => exact captureBits_cons_of_zero bitNs rfl []
  | @cons r q runs cap hrun _ ih =>
    obtain ⟨hlevel, hlow, hhigh⟩ := hrun
    obtain ⟨hr, hruns⟩ := List.forall_mem_cons.1 hpos
    rw [List.cons_append, captureBits_cons_of_ne_zero bitNs (dur_ne_zero_of_jitter hr hlow), ih hruns,
      runLength_of_jitter hlow hhigh, hlevel, spellRuns_cons]

/-- The first run of a reply is low: bit 20 of the raw reply is 0. -/
theorem replyRuns_head (v : TlmValue) : ∃ r rest, replyRuns v = r :: rest ∧ r.2 = false := by
  have hfirst : (replyLevels v).head? = some false := rfl
  obtain ⟨n, h⟩ := replyLevels_eq_spellRuns v
  rw [h] at hfirst
  cases hruns : replyRuns v with
  | nil =>
    rw [hruns] at hfirst
    exact absurd (List.eq_of_mem_replicate (List.mem_of_mem_head? hfirst)) nofun
  | cons r rest =>
    have hr : 0 < r.1 := runsOf_pos (mem_runsOf_of_mem_replyRuns (hruns ▸ List.mem_cons_self))
    obtain ⟨k, hk⟩ := Nat.exists_eq_succ_of_ne_zero hr.ne'
    rw [hruns, spellRuns_cons, hk] at hfirst
    exact ⟨r, rest, rfl, Option.some.inj hfirst⟩

/-- Levels equal to the padding change nothing at the end. -/
theorem getD_append_replicate (bs : List Bool) (n : Nat) (b : Bool) (i : Nat) :
    (bs ++ List.replicate n b).getD i b = bs.getD i b := by
  obtain hin | hout := Nat.lt_or_ge i bs.length
  · rw [List.getD_append _ _ _ _ hin]
  · rw [List.getD_append_right _ _ _ _ hout, List.getD_eq_default _ _ hout]
    rw [List.getD_eq_getElem?_getD, List.getElem?_replicate]
    split <;> rfl

/-- The raw reply of such a capture holds the reply's levels: a last high run that was dropped comes back as padding. -/
theorem unshift_of_spellsRuns {v : TlmValue} {bitNs : Nat} {cap : List CapPair} (h : SpellsRuns bitNs (replyRuns v) cap) :
    unshift (padRaw (accumulate bitNs (cap ++ [⟨0#32, true⟩]) 0 0).1 (accumulate bitNs (cap ++ [⟨0#32, true⟩]) 0 0).2) =
      replyGcr v := by
  refine unshift_of_replyLevels fun i hi => ?_
  obtain ⟨n, hlevels⟩ := replyLevels_eq_spellRuns v
  have hbits := captureBits_of_spellsRuns h fun r hr => runsOf_pos (mem_runsOf_of_mem_replyRuns hr)
  have hlen : (spellRuns (replyRuns v)).length ≤ 21 := by
    rw [← replyLevels_length v, hlevels, List.length_append]
    exact Nat.le_add_right ..
  rw [rawReplyIsTheRunsThenOnes bitNs _ i hi, ← captureBits, hbits, List.take_of_length_le hlen, hlevels,
    getD_append_replicate]

/-- R182 (iii): DECODE gives the value of a reply back under less than half a bit of jitter. -/
theorem decodeCapture_of_spellsRuns {v : TlmValue} {bitNs : Nat} {cap : List CapPair}
    (h : SpellsRuns bitNs (replyRuns v) cap) : decodeCapture (cap ++ [⟨0#32, true⟩]) bitNs = .ok v := by
  have hremap := (congrArg remap (unshift_of_spellsRuns h)).trans (remap_replyGcr v)
  obtain ⟨r, rest, hruns, hfirst⟩ := replyRuns_head v
  have hr : 0 < r.1 := runsOf_pos (mem_runsOf_of_mem_replyRuns (hruns ▸ List.mem_cons_self))
  rw [hruns] at h
  obtain ⟨q, qs, ⟨hlevel, hlow, -⟩, -, rfl⟩ := List.forall₂_cons_left_iff.1 h
  rw [List.cons_append] at hremap ⊢
  rw [decodeCapture_of_lead (hlevel.trans hfirst) (dur_ne_zero_of_jitter hr hlow), decodeBits_of_remap_some hremap, if_pos rfl]

/-- Without jitter the durations are whole bit periods, and three of them fit their 32 bits. -/
theorem spellsRuns_reply {v : TlmValue} {bitNs : Nat} (hpos : 0 < bitNs) (hfit : 3 * bitNs < 2 ^ 32) :
    SpellsRuns bitNs (replyRuns v) ((replyRuns v).map fun r => ⟨BitVec.ofNat 32 (r.1 * bitNs), r.2⟩) := by
  rw [SpellsRuns, List.forall₂_map_right_iff, List.forall₂_same]
  intro r hr
  have hmul : r.1 * bitNs ≤ 3 * bitNs := Nat.mul_le_mul_right bitNs (replyRuns_le_three hr)
  rw [BitVec.toNat_ofNat, Nat.mod_eq_of_lt (by omega)]
  exact ⟨rfl, by omega, by omega⟩

/-- An invalid window keeps DECODE from a value, whether or not the capture has a leading edge (R182 (ii)). -/
theorem decodeCapture_ne_ok_of_invalid {cap : List CapPair} {bitNs k : Nat} (hk : k < 4)
    (h : gcrRev (gcrWindow (unshift (padRaw (accumulate bitNs cap 0 0).1 (accumulate bitNs cap 0 0).2)) k) = none)
    (v : TlmValue) : decodeCapture cap bitNs ≠ .ok v := by
  cases cap with
  | nil => nofun
  | cons q qs =>
    by_cases hlead : q.level = true ∨ q.dur = 0#32
    · rw [decodeCapture_of_no_lead hlead]
      nofun
    · obtain ⟨hlevel, hdur⟩ := not_or.1 hlead
      rw [(invalidWindowIsBadGcr q qs bitNs (Bool.eq_false_of_not_eq_true hlevel) hdur).2 ⟨k, hk, h⟩]
      nofun

/-- Settles O24: the reply itself is the case without jitter. -/
theorem decodeRecoversEveryReply : Obligations.DecodeRecoversEveryReply := by
  refine ⟨fun q qs bitNs hlevel v => ?_, fun cap bitNs k hk h => decodeCapture_ne_ok_of_invalid hk h,
    fun v bitNs hpos hfit => decodeCapture_of_spellsRuns (spellsRuns_reply hpos hfit),
    fun v bitNs cap h => decodeCapture_of_spellsRuns h⟩
  rw [decodeCapture_of_no_lead (.inl hlevel)]
  nofun

/-! ### CLASSIFY -/

/-- The exponent is the top three bits (R110). -/
theorem tlmValue_exponent (v : TlmValue) : (v.extractLsb' 9 3).toNat = v.toNat / 512 := by
  rw [BitVec.extractLsb'_toNat, Nat.shiftRight_eq_div_pow]
  omega

theorem tlmValue_mantissa (v : TlmValue) : (v.extractLsb' 0 9).toNat = v.toNat % 512 := by
  rw [BitVec.extractLsb'_toNat, Nat.shiftRight_zero]

/-- Bit 8 is the top bit of the mantissa. -/
theorem tlmValue_bit8 {v : TlmValue} (h : v.getLsbD 8 = true) : 256 ≤ v.toNat % 512 := by
  rw [BitVec.getLsbD, Nat.testBit_eq_decide_div_mod_eq, decide_eq_true_iff] at h
  omega

/-- The period is the mantissa shifted by the exponent, and only the stopped pattern passes 65280. -/
theorem tlmValue_period_bounds {v : TlmValue} (h : v.getLsbD 8 = true) (hne : v ≠ 0xFFF#12) :
    256 ≤ (v.toNat % 512) * 2 ^ (v.toNat / 512) ∧ (v.toNat % 512) * 2 ^ (v.toNat / 512) ≤ 65280 := by
  have hmant := tlmValue_bit8 h
  have hv : v.toNat ≠ 4095 := fun hv => hne (BitVec.eq_of_toNat_eq hv)
  have hexp : v.toNat / 512 < 8 := by omega
  generalize he : v.toNat / 512 = e at hexp ⊢
  interval_cases e <;> omega

theorem classify_of_stopped : classify 0xFFF#12 = .erpmStopped := rfl

/-- Shifting the mantissa by the exponent loses no bit of the 16 (R110, R175). -/
theorem classify_of_erpm {v : TlmValue} (h : v.getLsbD 8 = true) (hne : v ≠ 0xFFF#12) :
    ∃ period, classify v = .erpm period ∧ period.toNat = (v.toNat % 512) * 2 ^ (v.toNat / 512) := by
  refine ⟨_, (if_pos h).trans (if_neg hne), ?_⟩
  have hbound := (tlmValue_period_bounds h hne).2
  rw [BitVec.toNat_shiftLeft, BitVec.toNat_setWidth, tlmValue_mantissa, tlmValue_exponent, Nat.shiftLeft_eq,
    Nat.mod_eq_of_lt (show v.toNat % 512 < 2 ^ 16 by omega), Nat.mod_eq_of_lt (by omega)]

theorem classify_of_slot {v : TlmValue} (h : v.getLsbD 8 = false) :
    classify v = .slot (v.extractLsb' 9 3).toFin (v.extractLsb' 0 8) :=
  if_neg (by rw [h]; nofun)

/-- Settles O25: each kind is a branch of CLASSIFY, its fields read off. -/
theorem classifySplitsOnBitEight : Obligations.ClassifySplitsOnBitEight := by
  intro v
  refine ⟨fun h => h ▸ classify_of_stopped, fun h hne => ?_, fun h => ⟨_, _, classify_of_slot h, tlmValue_exponent v, ?_⟩⟩
  · obtain ⟨period, hclass, hperiod⟩ := classify_of_erpm h hne
    obtain ⟨hmin, hmax⟩ := tlmValue_period_bounds h hne
    exact ⟨period, hclass, hperiod, hperiod ▸ hmin, hperiod ▸ hmax⟩
  · rw [BitVec.extractLsb'_toNat, Nat.shiftRight_zero]

/-! ### TLM_UPDATE -/

theorem tlmUpdate_of_result {p : Params} {cap : List CapPair} {r : Motor} {res : DecodeResult}
    (h : decodeCapture cap (p.timing r.cls).bitNs = res) : tlmUpdate p cap r = applyResult res r :=
  congrArg (applyResult · r) h

/-- Where a value goes, only the eRPM fields and the slots change (R180, R181). -/
theorem routeValue_frame (v : TlmValue) (r : Motor) :
    routeValue v r = { r with
      erpmUs := (routeValue v r).erpmUs, erpmStopped := (routeValue v r).erpmStopped, tlmSlot := (routeValue v r).tlmSlot } := by
  unfold routeValue
  split <;> rfl

theorem routeValue_of_stopped {v : TlmValue} (h : classify v = .erpmStopped) (r : Motor) :
    routeValue v r = { r with erpmUs := 0#16, erpmStopped := true } := by
  rw [routeValue, h]

theorem routeValue_of_erpm {v : TlmValue} {period : BitVec 16} (h : classify v = .erpm period) (r : Motor) :
    routeValue v r = { r with erpmUs := period, erpmStopped := false } := by
  rw [routeValue, h]

theorem routeValue_of_slot {v : TlmValue} {sel : Fin 8} {val : BitVec 8} (h : classify v = .slot sel val) (r : Motor) :
    routeValue v r = { r with tlmSlot := r.tlmSlot.set sel val } := by
  rw [routeValue, h]

/-- A value with bit 8 set is an eRPM value of either kind and leaves the slots alone. -/
theorem routeValue_tlmSlot_of_erpm {v : TlmValue} (h : v.getLsbD 8 = true) (r : Motor) :
    (routeValue v r).tlmSlot = r.tlmSlot := by
  by_cases hv : v = 0xFFF#12
  · rw [routeValue_of_stopped (hv ▸ classify_of_stopped)]
  · obtain ⟨period, hclass, -⟩ := classify_of_erpm h hv
    rw [routeValue_of_erpm hclass]

/-- Settles O26: the result tells the counters, and the kind of the value its fields. -/
theorem telemetryUpdateFollowsTheResult : Obligations.TelemetryUpdateFollowsTheResult := by
  intro p cap r
  refine ⟨tlmUpdate_of_result, ?_, fun v hok => ?_⟩
  · rintro (h | h) <;> exact tlmUpdate_of_result h
  rw [tlmUpdate_of_result hok, applyResult]
  obtain ⟨hstopped, herpm, hslot⟩ := classifySplitsOnBitEight v
  refine ⟨routeValue_frame v _, fun h => ?_, fun h hne => ?_, fun h => routeValue_tlmSlot_of_erpm h _, fun h => ?_⟩
  · rw [routeValue_of_stopped (hstopped h)]
    exact ⟨rfl, rfl⟩
  · obtain ⟨period, hclass, hperiod, -⟩ := herpm h hne
    rw [routeValue_of_erpm hclass]
    exact ⟨hperiod, rfl⟩
  · obtain ⟨sel, val, hclass, hsel, hval⟩ := hslot h
    rw [routeValue_of_slot hclass]
    refine ⟨rfl, rfl, fun i => ?_⟩
    rw [← hsel, ← hval, BitVec.ofNat_toNat, BitVec.setWidth_eq, Fin.getElem_fin, Vector.getElem_set]
    simp only [eq_comm, Fin.getElem_fin]

end Sys2Proof.Machine
end

section
/-!
The Channel Manager (spec/43_channel_manager.md R191 to R197): which channels a bind can take, what a successful BRINGUP commits,
and that a failing one only responds 0.
-/

namespace Sys2Proof.Machine

/-! ### The free channels -/

/-- The free channels are listed once each. -/
theorem State.card_free (p : Params) (s : State) :
    (Finset.univ.filter fun c : Chan => c.val < p.nCh ∧ s.owner c = none).card = (s.freeChannels p).length := by
  rw [← List.toFinset_card_of_nodup (State.nodup_freeChannels p s)]
  congr 1
  ext c
  simp [State.mem_freeChannels]

/-! ### The bind -/

theorem bindChannels_of_lt {p : Params} {s : State} {bidir : Bool} (h : (s.freeChannels p).length < channelsNeeded bidir) :
    bindChannels p s bidir = none := if_pos h

theorem bindChannels_unidir {p : Params} {s : State} (h : 1 ≤ (s.freeChannels p).length) :
    bindChannels p s false = some (pickChannel (p.allocChoice s.choices 0) (s.freeChannels p), none) :=
  if_neg (Nat.not_lt.2 h)

theorem bindChannels_bidir {p : Params} {s : State} (h : 2 ≤ (s.freeChannels p).length) :
    bindChannels p s true =
      some (pickChannel (p.allocChoice s.choices 0) (s.freeChannels p),
        some (pickChannel (p.allocChoice s.choices 1)
          ((s.freeChannels p).erase (pickChannel (p.allocChoice s.choices 0) (s.freeChannels p))))) :=
  if_neg (Nat.not_lt.2 h)

/-- With enough channels free a bind takes free ones: a receive channel exactly when bidirectional, other than the transmit one. -/
theorem bindChannels_takes_free {p : Params} {s : State} {bidir : Bool} (h : channelsNeeded bidir ≤ (s.freeChannels p).length) :
    ∃ tx rx, bindChannels p s bidir = some (tx, rx) ∧ tx.val < p.nCh ∧ s.owner tx = none ∧ (bidir = false → rx = none) ∧
      (bidir = true → ∃ r, rx = some r ∧ r ≠ tx ∧ r.val < p.nCh ∧ s.owner r = none) := by
  rcases bindChannels_cases p s bidir with
    ⟨hlt, -⟩ | ⟨-, rfl, tx, hbind, htx, hfree⟩ | ⟨-, rfl, tx, rx, hbind, htx, hfree, hrx, hfree', hne⟩
  · exact absurd h (Nat.not_le.2 hlt)
  · exact ⟨tx, none, hbind, htx, hfree, fun _ => rfl, nofun⟩
  · exact ⟨tx, some rx, hbind, htx, hfree, nofun, fun _ => ⟨rx, rfl, hne, hrx, hfree'⟩⟩

/-- The index of a channel in the list picks it. -/
theorem pickChannel_idxOf {c : Chan} {l : List Chan} (h : c ∈ l) : pickChannel (l.idxOf c) l = c := by
  have hlt : l.idxOf c < l.length := List.idxOf_lt_length_iff.2 h
  rw [pickChannel, Nat.mod_eq_of_lt hlt, List.getD_eq_getElem _ _ hlt, List.getElem_idxOf]

/-- The allocation policy that picks `tx` from the free channels `l` and `rx` from those left. -/
def allocPolicyFor (l : List Chan) (tx rx : Chan) (_ : Nat) : Nat → Nat
  | 0 => l.idxOf tx
  | _ + 1 => (l.erase tx).idxOf rx

theorem bindChannels_unidir_of_policy {p : Params} {s : State} {tx rx : Chan}
    (hp : p.allocChoice = allocPolicyFor (s.freeChannels p) tx rx) (htx : tx ∈ s.freeChannels p) :
    bindChannels p s false = some (tx, none) := by
  rw [bindChannels_unidir (List.length_pos_of_mem htx), hp, allocPolicyFor, pickChannel_idxOf htx]

theorem bindChannels_bidir_of_policy {p : Params} {s : State} {tx rx : Chan}
    (hp : p.allocChoice = allocPolicyFor (s.freeChannels p) tx rx) (htx : tx ∈ s.freeChannels p)
    (hrx : rx ∈ s.freeChannels p) (hne : rx ≠ tx) : bindChannels p s true = some (tx, some rx) := by
  have hrest : rx ∈ (s.freeChannels p).erase tx := (List.mem_erase_of_ne hne).2 hrx
  have hlen : 2 ≤ (s.freeChannels p).length := by
    have hpos := List.length_pos_of_mem hrest
    rw [List.length_erase_of_mem htx] at hpos
    omega
  rw [bindChannels_bidir hlen, hp, allocPolicyFor, allocPolicyFor, pickChannel_idxOf htx, pickChannel_idxOf hrest]

/-- Settles O29: the policy is the one that picks the channels given. -/
theorem bindAdmitsEveryFreeChoice : Obligations.BindAdmitsEveryFreeChoice := by
  intro s p tx htx hfree
  have hmem : tx ∈ s.freeChannels p := State.mem_freeChannels.2 ⟨htx, hfree⟩
  refine ⟨⟨allocPolicyFor (s.freeChannels p) tx tx, bindChannels_unidir_of_policy rfl hmem⟩, fun rx hrx hfree' hne => ?_⟩
  have hmem' : rx ∈ s.freeChannels p := State.mem_freeChannels.2 ⟨hrx, hfree'⟩
  exact ⟨allocPolicyFor (s.freeChannels p) tx rx, bindChannels_bidir_of_policy rfl hmem hmem' hne⟩

/-! ### BRINGUP -/

section
variable {p : Params} {m : BitVec 4} {k : MotIdx} {code : BitVec 4} {s : State} (pin : Pin)

theorem bringupOp_of_badIndex (hm : motorOf p m = none) : bringupOp p m pin code s = .next (s.respond 0#32) := by
  simp [bringupOp, hm]

theorem bringupOp_of_bound (hm : motorOf p m = some k) (hb : (s.motor k).bound = true) :
    bringupOp p m pin code s = .next (s.respond 0#32) := by
  simp [bringupOp, hm, hb]

/-- Whatever the index names, too few free channels let no bring-up succeed. -/
theorem bringupOp_of_bind_none (h : bindChannels p s (classBidir (normClass p code)) = none) :
    bringupOp p m pin code s = .next (s.respond 0#32) := by
  cases hm : motorOf p m with
  | none => exact bringupOp_of_badIndex pin hm
  | some k =>
    cases hb : (s.motor k).bound with
    | true => exact bringupOp_of_bound pin hm hb
    | false => simp [bringupOp, hm, hb, h]

theorem bringupOp_of_bind_some {tx : Chan} {rx : Option Chan} (hm : motorOf p m = some k) (hb : (s.motor k).bound = false)
    (h : bindChannels p s (classBidir (normClass p code)) = some (tx, rx)) :
    bringupOp p m pin code s = .next (((s.commit k pin (normClass p code) tx rx).nextChoice).respond 1#32) := by
  simp [bringupOp, hm, hb, h]

end

/-- Settles O28: each cause ends in an abnormal outcome, which only responds 0. -/
theorem bringupFailureChangesNothing : Obligations.BringupFailureChangesNothing := by
  intro m pin code s hcause
  have hexec : exec (.bringup m pin code) s = .next (s.respond 0#32) := by
    rcases hcause with hindex | ⟨k, hm, hb⟩ | hfew
    · exact bringupOp_of_badIndex pin (motorOf_eq_none hindex)
    · obtain hk | hk := Nat.lt_or_ge k.val Config.params.nMot
      · exact bringupOp_of_bound pin (motorOf_eq_some.2 ⟨hm, hk⟩) hb
      · exact bringupOp_of_badIndex pin (motorOf_eq_none (hm ▸ hk))
    · rw [State.card_free] at hfew
      exact bringupOp_of_bind_none pin (bindChannels_of_lt hfew)
  exact ⟨_, hexec, s.respond_onlyResponds 0#32⟩

/-- Settles O27: the bind takes free channels, and the commit has the whole effect of R196. -/
theorem bringupCommitsTheInstance : Obligations.BringupCommitsTheInstance := by
  intro m pin code s k hm hk hb hfree
  rw [State.card_free] at hfree
  obtain ⟨tx, rx, hbind, htx, htxFree, huni, hbi⟩ :=
    bindChannels_takes_free (bidir := classBidir (normClass Config.params code)) hfree
  have hne : ∀ r, rx = some r → r ≠ tx := by
    rintro r rfl
    obtain ⟨r', hr', hne', -⟩ := hbi (Bool.eq_true_of_not_eq_false fun hd => nomatch huni hd)
    exact Option.some.inj hr' ▸ hne'
  obtain ⟨hmotor, howner, htxOwner, hrxOwner, htrace, hrest⟩ := commit_effect s k pin (normClass Config.params code) tx rx hne
  refine ⟨tx, rx, _, bringupOp_of_bind_some pin (motorOf_eq_some.2 ⟨hm, hk⟩) hb hbind, htx, htxFree, huni, hbi,
    (hmotor k).trans (if_pos rfl), fun j hj => (hmotor j).trans (if_neg hj), howner, htxOwner, hrxOwner, ?_, ?_, ?_⟩
  · cases rx <;> exact htrace
  · rw [State.respond_responses, State.nextChoice_responses, hrest]
  · generalize s.commit k pin (normClass Config.params code) tx rx = t at hrest ⊢
    rw [hrest]
    rfl

end Sys2Proof.Machine
end

section
/-!
The peripheral's contract (spec/44_half_duplex.md R217, R225, spec/60_exceptions.md R270, R271): while it is kept, a motor is
TRANSMITTING exactly while its transmission is in flight or its completion waits, and a train is loaded on an idle channel only.
-/

namespace Sys2Proof.Machine

/-! ### The flow, channel by channel -/

/-- The transmit side of `FlowCoherent` on channel `c`: at most one of flight and completion, none without an owner, and one of them
exactly while the owner is TRANSMITTING. -/
structure TransmitTracked (s : State) (c : Chan) : Prop where
  once : ¬ (s.inFlight c = true ∧ s.txDoneBit c = true)
  owned : s.txOwner c = none → s.inFlight c = false ∧ s.txDoneBit c = false
  transmitting : ∀ m, s.txOwner c = some m →
    ((s.motor m).st = .transmitting ↔ (s.inFlight c = true ∨ s.txDoneBit c = true))

/-- The receive side of `FlowCoherent` on channel `c`. -/
structure ReceiveTracked (s : State) (c : Chan) : Prop where
  owned : s.rxOwner c = none → s.armed c = 0 ∧ s.rxDoneBit c = false
  rxDone : s.rxDoneBit c = true ↔ s.capOwner c = .done

/-- `FlowCoherent` is the invariant and the two sides of every channel. -/
theorem flowCoherent_iff {p : Params} {s : State} :
    FlowCoherent p s ↔ Inv p s ∧ (∀ c, TransmitTracked s c) ∧ ∀ c, ReceiveTracked s c := by
  constructor
  · intro h
    refine ⟨h.inv, fun c => ⟨h.once c, h.txOwned c, fun m ho => ?_⟩, fun c => ⟨h.rxOwned c, h.rxDone c⟩⟩
    obtain ⟨hb, hc⟩ := (h.inv.tables.txMap c m).1 ho
    exact h.transmitting m c hb hc
  · rintro ⟨hi, htx, hrx⟩
    exact
      { inv := hi
        transmitting := fun m c hb hc => (htx c).transmitting m ((hi.tables.txMap c m).2 ⟨hb, hc⟩)
        once := fun c => (htx c).once
        txOwned := fun c => (htx c).owned
        rxOwned := fun c => (hrx c).owned
        rxDone := fun c => (hrx c).rxDone }

/-- The transmit side of a channel is kept where the channel is left alone and its owner neither starts nor stops transmitting. -/
theorem TransmitTracked.of_eq {s t : State} {c : Chan} (h : TransmitTracked s c) (ho : t.txOwner c = s.txOwner c)
    (hfly : t.inFlight c = s.inFlight c) (hbit : t.txDoneBit c = s.txDoneBit c)
    (hst : ∀ m, s.txOwner c = some m → ((t.motor m).st = .transmitting ↔ (s.motor m).st = .transmitting)) :
    TransmitTracked t c where
  once := by rw [hfly, hbit]; exact h.once
  owned hn := by rw [hfly, hbit]; exact h.owned (ho.symm.trans hn)
  transmitting m hm := by
    have hs := ho.symm.trans hm
    rw [hfly, hbit, hst m hs]
    exact h.transmitting m hs

/-- The receive side of a channel is kept where its buffer is left alone and no owner is lost. -/
theorem ReceiveTracked.of_eq {s t : State} {c : Chan} (h : ReceiveTracked s c) (ho : t.rxOwner c = none → s.rxOwner c = none)
    (harm : t.armed c = s.armed c) (hbit : t.rxDoneBit c = s.rxDoneBit c) (hown : t.capOwner c = s.capOwner c) :
    ReceiveTracked t c where
  owned hn := by rw [harm, hbit]; exact h.owned (ho hn)
  rxDone := by rw [hbit, hown]; exact h.rxDone

/-- What the contract adds does not see the trace, the ports and the counter of free choices. -/
theorem FlowCoherent.of_outputs {p : Params} {s t : State} (h : FlowCoherent p s)
    (e : t = { s with trace := t.trace, inputs := t.inputs, responses := t.responses, choices := t.choices }) :
    FlowCoherent p t := by
  have hi : Inv p t := h.inv.of_outputs e
  rw [e] at hi ⊢
  exact ⟨hi, h.transmitting, h.once, h.txOwned, h.rxOwned, h.rxDone⟩

/-- In a good state a motor owns one transmit channel at most. -/
theorem Inv.txOwner_inj {p : Params} {s : State} (h : Inv p s) {c d : Chan} {m : MotIdx} (hc : s.txOwner c = some m)
    (hd : s.txOwner d = some m) : c = d :=
  Option.some.inj ((((h.tables.txMap c m).1 hc).2).symm.trans ((h.tables.txMap d m).1 hd).2)

/-- While the contract is kept, the channel of a bound motor that is not transmitting is idle (R225 (iv)). -/
theorem FlowCoherent.idle_of_not_transmitting {p : Params} {s : State} (h : FlowCoherent p s) {m : MotIdx} {c : Chan}
    (hb : (s.motor m).bound = true) (hc : (s.motor m).txCh = some c) (hs : (s.motor m).st ≠ .transmitting) :
    s.inFlight c = false ∧ s.txDoneBit c = false := by
  simpa using mt (h.transmitting m c hb hc).2 hs

/-! ### SEND and BRINGUP -/

section
variable (p : Params) (m : MotIdx) (c : Chan) (a : Nat) (tlm : Bool) (s : State) (d : Chan)

@[simp] theorem startTransmission_txOwner : (startTransmission p m c a tlm s).txOwner d = s.txOwner d := by
  rw [startTransmission_frame]; rfl
@[simp] theorem startTransmission_rxOwner : (startTransmission p m c a tlm s).rxOwner d = s.rxOwner d := by
  rw [startTransmission_frame]; rfl
@[simp] theorem startTransmission_txDoneBit : (startTransmission p m c a tlm s).txDoneBit d = s.txDoneBit d := by
  rw [startTransmission_frame]; rfl
@[simp] theorem startTransmission_rxDoneBit : (startTransmission p m c a tlm s).rxDoneBit d = s.rxDoneBit d := by
  rw [startTransmission_frame]; rfl
@[simp] theorem startTransmission_capOwner : (startTransmission p m c a tlm s).capOwner d = s.capOwner d := by
  rw [startTransmission_frame]; rfl
@[simp] theorem startTransmission_armed : (startTransmission p m c a tlm s).armed d = s.armed d := by
  rw [startTransmission_frame]; rfl

end

section
variable (s : State) (m : MotIdx) (pin : Pin) (cls : SpeedClass) (tx : Chan) (rx : Option Chan) (d : Chan)

@[simp] theorem commit_inFlight : (s.commit m pin cls tx rx).inFlight d = s.inFlight d := by cases rx <;> rfl
@[simp] theorem commit_txDoneBit : (s.commit m pin cls tx rx).txDoneBit d = s.txDoneBit d := by cases rx <;> rfl
@[simp] theorem commit_rxDoneBit : (s.commit m pin cls tx rx).rxDoneBit d = s.rxDoneBit d := by cases rx <;> rfl
@[simp] theorem commit_capOwner : (s.commit m pin cls tx rx).capOwner d = s.capOwner d := by cases rx <;> rfl
@[simp] theorem commit_armed : (s.commit m pin cls tx rx).armed d = s.armed d := by cases rx <;> rfl

end

/-- A started transmission is in flight on the channel of the motor that is now TRANSMITTING, and every other channel is left
alone. -/
theorem startTransmission_flow {p : Params} {s : State} {k : MotIdx} {c : Chan} (a : Nat) (tlm : Bool) (h : FlowCoherent p s)
    (hb : (s.motor k).bound = true) (hs : (s.motor k).st ≠ .transmitting) (hc : (s.motor k).txCh = some c) :
    FlowCoherent p (startTransmission p k c a tlm s) := by
  obtain ⟨-, hbit⟩ := h.idle_of_not_transmitting hb hc hs
  have hown : s.txOwner c = some k := (h.inv.tables.txMap c k).2 ⟨hb, hc⟩
  obtain ⟨-, htx, hrx⟩ := flowCoherent_iff.1 h
  refine flowCoherent_iff.2 ⟨startTransmission_inv a tlm h.inv hb hc, fun d => ?_, fun d => ?_⟩
  · by_cases hd : d = c
    · subst hd
      refine ⟨by simp [hbit], by simp [hown], fun m hm => ?_⟩
      obtain rfl : k = m := by simpa [hown] using hm
      simp [startTransmission_motor, startTransmission_inFlight]
    · refine (htx d).of_eq (by simp) (by simp [startTransmission_inFlight, hd]) (by simp) fun m hm => ?_
      have hne : m ≠ k := by
        rintro rfl
        exact hd (h.inv.txOwner_inj hm hown)
      simp [startTransmission_motor, hne]
  · exact (hrx d).of_eq (by simp) (by simp) (by simp) (by simp)

/-- A commit gives its new motor, which is idle, channels on which nothing is in flight or waits. -/
theorem commit_flow {p : Params} {s : State} {k : MotIdx} {tx : Chan} {rx : Option Chan} (pin : Pin) (cls : SpeedClass)
    (h : FlowCoherent p s) (hi : Inv p (s.commit k pin cls tx rx)) (hb : (s.motor k).bound = false) (hfree : s.owner tx = none)
    (hrx : ∀ r, rx = some r → r ≠ tx) : FlowCoherent p (s.commit k pin cls tx rx) := by
  obtain ⟨hmot, -, htxMap, hrxMap, -⟩ := commit_effect s k pin cls tx rx hrx
  obtain ⟨-, htx, hrx⟩ := flowCoherent_iff.1 h
  refine flowCoherent_iff.2 ⟨hi, fun c => ?_, fun c => ?_⟩
  · by_cases hc : c = tx
    · subst hc
      obtain ⟨hfly, hbit⟩ := (htx c).owned (h.inv.tables.maps_none hfree).1
      refine ⟨by simp [hfly], by simp [hfly, hbit], fun m hm => ?_⟩
      obtain rfl : k = m := by simpa [htxMap] using hm
      simp [hmot, freshMotor, hfly, hbit]
    · refine (htx c).of_eq (by simp [htxMap, hc]) (by simp) (by simp) fun m hm => ?_
      have hne : m ≠ k := by
        rintro rfl
        exact absurd ((h.inv.bound_of_txOwner hm).symm.trans hb) (by decide)
      simp [hmot, hne]
  · refine (hrx c).of_eq (fun hn => ?_) (by simp) (by simp) (by simp)
    rw [hrxMap] at hn
    split at hn
    · cases hn
    · exact hn

/-! ### The events -/

/-- A transmit completion that the contract allows ends the flight of the channel's owner, whose completion now waits. -/
theorem transmitComplete_flow {p : Params} {s : State} {k : Chan} (h : FlowCoherent p s) (hk : k.val < p.nCh)
    (hfly : s.inFlight k = true) : FlowCoherent p (transmitComplete k s) := by
  obtain ⟨-, htx, hrx⟩ := flowCoherent_iff.1 h
  refine flowCoherent_iff.2 ⟨transmitComplete_inv h.inv hk, fun c => ?_, fun c => ?_⟩
  · by_cases hc : c = k
    · subst hc
      have hown : s.txOwner c ≠ none := fun hn => absurd (hfly.symm.trans ((htx c).owned hn).1) (by decide)
      refine ⟨by simp [transmitComplete], fun hn => absurd hn hown, fun m hm => ?_⟩
      simpa [transmitComplete, hfly] using (htx c).transmitting m hm
    · exact (htx c).of_eq rfl (by simp [transmitComplete, hc]) (by simp [transmitComplete, hc]) fun _ _ => .rfl
  · exact (hrx c).of_eq id rfl rfl rfl

/-- A receive completion that the contract allows is of a capture armed on an owned channel, and hands the buffer over with its
bit. -/
theorem receiveComplete_flow {p : Params} {s : State} {k : Chan} {l : List CapPair} (hl : l.length < capMax + 1)
    (h : FlowCoherent p s) (hk : k.val < p.nCh) (harm : 0 < s.armed k) : FlowCoherent p (receiveComplete k l hl s) := by
  obtain ⟨-, htx, hrx⟩ := flowCoherent_iff.1 h
  refine flowCoherent_iff.2 ⟨receiveComplete_inv hl h.inv hk, fun c => ?_, fun c => ?_⟩
  · exact (htx c).of_eq rfl rfl rfl fun _ _ => .rfl
  · by_cases hc : c = k
    · subst hc
      have hown : s.rxOwner c ≠ none := fun hn => by
        have := ((hrx c).owned hn).1
        omega
      exact ⟨fun hn => absurd hn hown, by simp [receiveComplete]⟩
    · exact (hrx c).of_eq id (by simp [receiveComplete, hc]) (by simp [receiveComplete, hc]) (by simp [receiveComplete, hc])

/-! ### A handler run -/

/-- The status bit that `b` names. -/
def State.statusBit (s : State) (b : EvKind × Chan) : Bool :=
  match b.1 with
  | .tx => s.txDoneBit b.2
  | .rx => s.rxDoneBit b.2

@[simp] theorem State.statusBit_tx (s : State) (c : Chan) : s.statusBit (.tx, c) = s.txDoneBit c := rfl
@[simp] theorem State.statusBit_rx (s : State) (c : Chan) : s.statusBit (.rx, c) = s.rxDoneBit c := rfl

/-- In a good state every set status bit is pending: none is set outside the pool. -/
theorem Inv.mem_pending_iff {p : Params} {s : State} (h : Inv p s) {b : EvKind × Chan} :
    b ∈ s.pending p ↔ s.statusBit b = true := by
  obtain ⟨kind, c⟩ := b
  have hpool : s.statusBit (kind, c) = true → c.val < p.nCh := fun hb => by
    by_contra hc
    have hu := h.absent.channel (Nat.le_of_not_lt hc)
    cases kind
    · simp [hu.txDoneBit] at hb
    · simp [hu.rxDoneBit] at hb
  rw [State.mem_pending]
  exact ⟨fun hb => hb.2, fun hb => ⟨hpool hb, hb⟩⟩

/-- A service clears its own status bit and no other. -/
theorem ServiceCase.statusBit {p : Params} {b : EvKind × Chan} {s t : State} (h : ServiceCase p s b t) (b' : EvKind × Chan) :
    t.statusBit b' = if b' = b then false else s.statusBit b' := by
  obtain ⟨kind, d⟩ := b'
  cases h with
  | clearsTx c => cases kind <;> simp [State.clearTxDone]
  | clearsRx c => cases kind <;> simp [State.clearRxDone]
  | txUnidir m c _ _ _ hl => cases kind <;> simp [hl.txDoneBit, hl.rxDoneBit, txChangeUnidir, eq_comm]
  | txBidir m c r _ _ _ _ hl => cases kind <;> simp [hl.txDoneBit, hl.rxDoneBit, txChangeBidir, eq_comm]
  | rx m c cap _ _ hl => cases kind <;> simp [hl.txDoneBit, hl.rxDoneBit, rxChange, eq_comm]

/-- What holds of the flow between the services of a run. A TX_DONE may hand a buffer to the peripheral whose receive bit is still to
service (R224), so of the last clause of `FlowCoherent` only one direction holds. -/
structure FlowInRun (p : Params) (s : State) : Prop where
  inv : Inv p s
  tx : ∀ c, TransmitTracked s c
  rxOwned : ∀ c, s.rxOwner c = none → s.armed c = 0 ∧ s.rxDoneBit c = false
  rxDone : ∀ c, s.capOwner c = .done → s.rxDoneBit c = true

theorem FlowCoherent.inRun {p : Params} {s : State} (h : FlowCoherent p s) : FlowInRun p s where
  inv := h.inv
  tx := (flowCoherent_iff.1 h).2.1
  rxOwned := h.rxOwned
  rxDone c := (h.rxDone c).2

/-- The flow is coherent again when the run has left no receive bit set. -/
theorem FlowInRun.flowCoherent {p : Params} {s : State} (h : FlowInRun p s) (hbits : ∀ c, s.rxDoneBit c = false) :
    FlowCoherent p s :=
  flowCoherent_iff.2 ⟨h.inv, h.tx, fun c => ⟨h.rxOwned c, fun hb => absurd ((hbits c).symm.trans hb) (by decide), h.rxDone c⟩⟩

/-- A service change keeps the flow in the run where the transmit side is kept, a channel it arms has an owner, and the buffer whose bit
it clears is handed to the peripheral. -/
theorem Change.Leads.flowInRun {p : Params} {e : Change} {m : MotIdx} {s t : State} (hl : e.Leads m s t) (h : FlowInRun p s)
    (hi : Inv p t) (htx : ∀ c, TransmitTracked t c) (harm : ∀ c, e.arms = some c → s.rxOwner c ≠ none)
    (hclear : ∀ c, e.clearsRx = some c → e.hands = some c) : FlowInRun p t where
  inv := hi
  tx := htx
  rxOwned c hn := by
    have hs : s.rxOwner c = none := by rw [hl.rest] at hn; exact hn
    obtain ⟨ha, hb⟩ := h.rxOwned c hs
    have hna : e.arms ≠ some c := fun he => harm c he hs
    simp [hl.armed, hl.rxDoneBit, hna, ha, hb]
  rxDone c hd := by
    have hnh : e.hands ≠ some c := fun he => by simp [hl.capOwner, he] at hd
    have hs : s.capOwner c = .done := by simpa [hl.capOwner, hnh] using hd
    have hnc : e.clearsRx ≠ some c := fun he => hnh (hclear c he)
    simp [hl.rxDoneBit, hnc, h.rxDone c hs]

/-- A service change of the owner of transmit channel `c` that clears its set bit and stops the transmission keeps the transmit side:
nothing is in flight on `c`, since its completion was waiting. -/
theorem Change.Leads.transmitTracked_of_txDone {p : Params} {e : Change} {m : MotIdx} {c : Chan} {s t : State}
    (hl : e.Leads m s t) (h : FlowInRun p s) (ho : s.txOwner c = some m) (hbit : s.txDoneBit c = true)
    (hclear : e.clearsTx = some c) (hst : e.record.st ≠ .transmitting) (d : Chan) : TransmitTracked t d := by
  have hown : t.txOwner d = s.txOwner d := by rw [hl.rest]; rfl
  have hfly : t.inFlight d = s.inFlight d := by rw [hl.rest]; rfl
  by_cases hd : d = c
  · subst hd
    have hidle : s.inFlight d = false := by simpa [hbit] using (h.tx d).once
    refine ⟨by simp [hfly, hidle], fun hn => absurd (hown.symm.trans hn) (by simp [ho]), fun j hj => ?_⟩
    obtain rfl : m = j := by simpa [hown, ho] using hj
    simp [hl.motor, hst, hfly, hidle, hl.txDoneBit, hclear]
  · refine (h.tx d).of_eq hown hfly (by simp [hl.txDoneBit, hclear, Ne.symm hd]) fun j hj => ?_
    have hne : j ≠ m := by
      rintro rfl
      exact hd (h.inv.txOwner_inj hj ho)
    simp [hl.motor, hne]

/-- RX_DONE neither starts nor stops a transmission. -/
theorem rxChange_st_transmitting (p : Params) (m : MotIdx) (c : Chan) (cap : List CapPair) (r : Motor) :
    (rxChange p m c cap r).record.st = .transmitting ↔ r.st = .transmitting := by
  simp only [rxChange]
  split
  · next hst => simp [hst]
  · rw [tlmUpdate_st]

/-- The service of a set bit keeps the flow in the run. -/
theorem FlowInRun.service {p : Params} {b : EvKind × Chan} {s t : State} (h : FlowInRun p s) (hbit : s.statusBit b = true)
    (hc : ServiceCase p s b t) : FlowInRun p t := by
  have hi := hc.inv h.inv
  cases hc with
  | clearsTx c ho => exact absurd (((h.tx c).owned ho).2.symm.trans hbit) (by decide)
  | clearsRx c ho => exact absurd ((h.rxOwned c ho).2.symm.trans hbit) (by decide)
  | txUnidir m c _ ho hb hl =>
    exact hl.flowInRun h hi (hl.transmitTracked_of_txDone h ho hbit rfl (by simp [txChangeUnidir])) nofun nofun
  | txBidir m c r _ ho hb hr hl =>
    refine hl.flowInRun h hi (hl.transmitTracked_of_txDone h ho hbit rfl (by simp [txChangeBidir])) ?_ nofun
    intro d hd
    cases hd
    simp [(h.inv.tables.rxMap r m).2 ⟨h.inv.bound_of_txOwner ho, hr⟩]
  | rx m c cap _ ho hl =>
    refine hl.flowInRun h hi (fun d => ?_) nofun fun d hd => hd
    refine (h.tx d).of_eq (by rw [hl.rest]; rfl) (by rw [hl.rest]; rfl) (by simp [hl.txDoneBit, rxChange]) fun j _ => ?_
    by_cases hj : j = m
    · rw [hl.motor, if_pos hj, hj]
      exact rxChange_st_transmitting p m c cap _
    · rw [hl.motor, if_neg hj]

/-- A run of the services of the set bits, each once, ends in a coherent flow with no bit set. -/
theorem FlowInRun.serviceAll {p : Params} {bits : List (EvKind × Chan)} {s t : State} (h : FlowInRun p s) (hn : bits.Nodup)
    (hbits : ∀ b, b ∈ bits ↔ s.statusBit b = true) (ht : serviceAll p bits s = .next t) : FlowCoherent p t := by
  induction bits generalizing s with
  | nil =>
    cases ht
    exact h.flowCoherent fun c => by simpa using hbits (.rx, c)
  | cons b bs ih =>
    obtain ⟨u, hu, ht⟩ := Result.andThen_eq_next ht
    have hc := serviceBit_cases hu
    obtain ⟨hnot, hn⟩ := List.nodup_cons.1 hn
    refine ih (h.service ((hbits b).1 List.mem_cons_self) hc) hn (fun b' => ?_) ht
    rw [hc.statusBit]
    by_cases hb : b' = b
    · simp [hb, hnot]
    · simp [hb, ← hbits]

/-- A handler run keeps the flow coherent. -/
theorem isrOp_flow {p : Params} {s t : State} (h : FlowCoherent p s) (ht : isrOp p s = .next t) : FlowCoherent p t := by
  unfold isrOp at ht
  split at ht
  · cases ht; exact h
  · have hperm := serviceOrder_perm p s.choices (s.pending p)
    have hnext : FlowCoherent p s.nextChoice := h.of_outputs rfl
    exact hnext.inRun.serviceAll (hperm.nodup_iff.2 (State.nodup_pending p s))
      (fun b => hperm.mem_iff.trans h.inv.mem_pending_iff) ht

/-! ### Every step keeps the flow coherent -/

/-- Every instruction that the contract allows keeps the flow coherent. -/
theorem ExecCase.flow {p : Params} {s : State} {i : Instr} {t : State} (hc : ExecCase p s i t) (h : FlowCoherent p s)
    (hallow : ContractAllows p i s) : FlowCoherent p t := by
  have hi := hc.inv h.inv
  cases hc with
  | responds i w => exact h.of_outputs rfl
  | nothing i => exact h
  | commits m pin code k tx rx hk hb htx hfree huni hbi =>
    obtain ⟨-, hrx⟩ := receive_channel_of_commit huni hbi
    have hcommit := commit_flow pin (normClass p code) h (hi.of_outputs rfl) hb hfree fun r hr => (hrx r hr).2.2
    exact hcommit.of_outputs rfl
  | transmits i k c a tlm _ _ _ hb hs hc => exact (startTransmission_flow a tlm h hb hs hc).of_outputs rfl
  | transmitted x k hk => exact transmitComplete_flow h (channelOf_eq_some.1 hk).2 (hallow k hk)
  | received x l k hl hk => exact receiveComplete_flow hl h (channelOf_eq_some.1 hk).2 (hallow k hk).1
  | handled t ht => exact isrOp_flow h ht

/-- The contract is about hidden state and buffers, not about the port. -/
theorem ContractAllows.setInputs {p : Params} {i : Instr} {s : State} (h : ContractAllows p i s) (l : List Input) :
    ContractAllows p i (s.setInputs l) := by
  cases i <;> exact h

/-- Settles O57: one case analysis of a step, where a handler run keeps the weaker `FlowInRun` from service to service. -/
theorem contractKeepsTransmissionsTracked : Obligations.ContractKeepsTransmissionsTracked := by
  intro s t h hallow ht
  rcases step_cases ht with ⟨-, rfl⟩ | ⟨inp, rest, i, hs, hd, hx⟩
  · exact h
  · exact (exec_cases hx).flow (h.of_outputs rfl) ((hallow inp rest i hs hd).setInputs rest)

/-! ### The trains loaded -/

/-- `t` extends the trace of `s` by actions that load no train. -/
def LoadsNoTrain (s t : State) : Prop := ∃ l, t.trace = s.trace ++ l ∧ ∀ c train, .txLoad c train ∉ l

theorem LoadsNoTrain.of_trace_eq {s t : State} (h : t.trace = s.trace) : LoadsNoTrain s t := ⟨[], by simp [h], by simp⟩

theorem LoadsNoTrain.trans {s t u : State} (h : LoadsNoTrain s t) (h' : LoadsNoTrain t u) : LoadsNoTrain s u := by
  obtain ⟨l, ht, hl⟩ := h
  obtain ⟨l', hu, hl'⟩ := h'
  exact ⟨l ++ l', by rw [hu, ht, List.append_assoc], fun c train => by simp [hl c train, hl' c train]⟩

/-- No service loads a train. -/
theorem ServiceCase.loadsNoTrain {p : Params} {b : EvKind × Chan} {s t : State} (h : ServiceCase p s b t) :
    LoadsNoTrain s t := by
  cases h with
  | clearsTx c => exact ⟨_, rfl, by simp⟩
  | clearsRx c => exact ⟨_, rfl, by simp⟩
  | txUnidir m c _ _ _ hl => exact ⟨_, hl.trace, by simp [txChangeUnidir]⟩
  | txBidir m c r _ _ _ _ hl => exact ⟨_, hl.trace, by simp [txChangeBidir]⟩
  | rx m c cap _ _ hl =>
    refine ⟨_, hl.trace, fun d train => ?_⟩
    simp only [rxChange]
    split <;> simp

/-- A step loads no train, or it starts a transmission of a bound motor that is not transmitting. -/
theorem ExecCase.loadsNoTrain_or_starts {p : Params} {s : State} {i : Instr} {t : State} (h : ExecCase p s i t) :
    LoadsNoTrain s t ∨ ∃ k c a tlm, (s.motor k).bound = true ∧ (s.motor k).st ≠ .transmitting ∧ (s.motor k).txCh = some c ∧
      t = (startTransmission p k c a tlm s).respond 0#32 := by
  cases h with
  | responds i w => exact .inl (.of_trace_eq rfl)
  | nothing i => exact .inl (.of_trace_eq rfl)
  | commits m pin code k tx rx _ _ _ _ huni hbi =>
    obtain ⟨-, hrx⟩ := receive_channel_of_commit huni hbi
    obtain ⟨-, -, -, -, htrace, -⟩ := commit_effect s k pin (normClass p code) tx rx fun r hr => (hrx r hr).2.2
    exact .inl ⟨_, htrace.trans (List.append_assoc ..), by cases rx <;> simp⟩
  | transmits i k c a tlm _ _ _ hb hs hc => exact .inr ⟨k, c, a, tlm, hb, hs, hc, rfl⟩
  | transmitted x k => exact .inl (.of_trace_eq rfl)
  | received x l k => exact .inl (.of_trace_eq rfl)
  | handled t h =>
    exact .inl (isrOp_keeps (P := LoadsNoTrain s) (fun hu => hu.trans (.of_trace_eq rfl))
      (fun _ _ _ hu hc => hu.trans hc.loadsNoTrain) (.of_trace_eq rfl) h)

/-- The one train that a started transmission loads is on its own channel. -/
theorem startTransmission_loads {p : Params} {k : MotIdx} {c d : Chan} {a : Nat} {tlm : Bool} {s : State} {l : List Action}
    {train : List SlotWord} (h : (startTransmission p k c a tlm s).trace = s.trace ++ l) (hmem : .txLoad d train ∈ l) :
    d = c := by
  rw [startTransmission_trace, List.append_assoc, List.append_cancel_left_eq] at h
  subst h
  cases hb : (s.motor k).bidir <;> simp_all

/-- Settles O58: only a started transmission loads a train, and it starts on the channel of a motor that is not transmitting, which
is idle while the contract is kept. -/
theorem trainsAreLoadedOnIdleChannelsOnly : Obligations.TrainsAreLoadedOnIdleChannelsOnly := by
  intro s t l d train h ht htrace hmem
  have loads_no_train : ¬ LoadsNoTrain s t := fun ⟨l', htrace', hno⟩ => by
    obtain rfl := List.append_cancel_left (htrace.symm.trans htrace')
    exact hno d train hmem
  rcases step_cases ht with ⟨-, rfl⟩ | ⟨inp, rest, i, -, -, hx⟩
  · exact absurd (.of_trace_eq rfl) loads_no_train
  · rcases (exec_cases hx).loadsNoTrain_or_starts with hno | ⟨k, c, a, tlm, hb, hs, hc, rfl⟩
    · exact absurd hno loads_no_train
    · rw [State.respond_trace] at htrace
      obtain rfl : d = c := startTransmission_loads (s := s.setInputs rest) htrace hmem
      exact h.idle_of_not_transmitting hb hc hs

end Sys2Proof.Machine
end

section
/-!
The half-duplex operations (spec/44_half_duplex.md R212 to R225): SEND, a handler run that finds one bit, a late reply, and that every
bound motor can send again.
-/

namespace Sys2Proof.Machine

/-! ### SEND -/

section
variable {p : Params} {m : BitVec 4} {k : MotIdx} {s : State} (a : Nat) (tlm : Bool)

theorem sendOp_of_badIndex (hm : motorOf p m = none) : sendOp p m a tlm s = .next (s.respond 0#32) := by
  simp [sendOp, hm]

theorem sendOp_of_unbound (hm : motorOf p m = some k) (hb : (s.motor k).bound = false) :
    sendOp p m a tlm s = .next (s.respond 0#32) := by
  simp [sendOp, hm, hb]

/-- During a transmission the answer is the policy's (R213). -/
theorem sendOp_of_transmitting (hm : motorOf p m = some k) (hb : (s.motor k).bound = true)
    (hs : (s.motor k).st = .transmitting) :
    (p.sendWhileTx = .drop → sendOp p m a tlm s = .next (s.respond 0#32)) ∧
    (p.sendWhileTx = .refuse → sendOp p m a tlm s = .refused .sendWhileTransmitting) := by
  constructor <;> intro hp <;> simp [sendOp, hm, hb, hs, hp]

end

/-- Settles O31: a SEND that starts a transmission has the whole effect of R212. -/
theorem sendTransmitsTheValue : Obligations.SendTransmitsTheValue := by
  intro m tlm value s k c hm hk hb hs hc
  exact ⟨_, sendOp_starts Config.params value.toNat tlm (motorOf_eq_some.2 ⟨hm, hk⟩) hb hs hc,
    startTransmission_transmits Config.params k c _ tlm s⟩

/-- Settles O32: an index that is none and an unbound slot end in abnormal outcomes, which only respond 0. -/
theorem sendToNoInstanceDoesNothing : Obligations.SendToNoInstanceDoesNothing := by
  intro m tlm value s hcause
  have hexec : exec (.send m tlm value) s = .next (s.respond 0#32) := by
    cases hm : motorOf Config.params m with
    | none => exact sendOp_of_badIndex value.toNat tlm hm
    | some k =>
      obtain ⟨hmk, hk⟩ := motorOf_eq_some.1 hm
      rcases hcause with hle | ⟨j, hmj, hb⟩
      · omega
      · obtain rfl : k = j := Fin.ext (hmk.symm.trans hmj)
        exact sendOp_of_unbound value.toNat tlm hm hb
  exact ⟨_, hexec, s.respond_onlyResponds 0#32⟩

/-- Settles O33: the policy decides, and the machine's is drop. -/
theorem sendDuringATransmissionIsDropped : Obligations.SendDuringATransmissionIsDropped := by
  intro m tlm s k hm hk hb hs
  refine ⟨fun value => ⟨_, ?_, s.respond_onlyResponds 0#32⟩, fun p a hkp => ?_⟩
  · exact (sendOp_of_transmitting value.toNat tlm (motorOf_eq_some.2 ⟨hm, hk⟩) hb hs).1 Config.params_sendWhileTx
  · obtain ⟨hdrop, hrefuse⟩ := sendOp_of_transmitting a tlm (motorOf_eq_some.2 ⟨hm, hkp⟩) hb hs
    exact ⟨fun hp => ⟨_, hdrop hp, s.respond_onlyResponds 0#32⟩, hrefuse⟩

/-! ### What a change leaves alone -/

section
variable {e : Change} {m : MotIdx} {s t : State} (h : e.Leads m s t)
include h

theorem Change.Leads.txSt_of_none (hn : e.clearsTx = none) : t.txSt = s.txSt :=
  vector_ext fun d => (h.txDoneBit d).trans (if_neg (by simp [hn]))

theorem Change.Leads.rxSt_of_none (hn : e.clearsRx = none) : t.rxSt = s.rxSt :=
  vector_ext fun d => (h.rxDoneBit d).trans (if_neg (by simp [hn]))

theorem Change.Leads.rxOwn_of_none (hn : e.hands = none) : t.rxOwn = s.rxOwn :=
  vector_ext fun d => (h.capOwner d).trans (if_neg (by simp [hn]))

theorem Change.Leads.rxArmed_of_none (hn : e.arms = none) : t.rxArmed = s.rxArmed :=
  vector_ext fun d => (h.armed d).trans (if_neg (by simp [hn]))

theorem Change.Leads.choices : t.choices = s.choices := by rw [h.rest]

theorem Change.Leads.motor_self : t.motor m = e.record := (h.motor m).trans (if_pos rfl)

theorem Change.Leads.motor_other {j : MotIdx} (hj : j ≠ m) : t.motor j = s.motor j := (h.motor j).trans (if_neg hj)

end

/-! ### A run that finds one bit -/

/-- A run that finds one transmit bit is TX_DONE of the owner, the choice of its order made. -/
theorem exec_isr_of_single_tx {s : State} {c : Chan} {m : MotIdx} (hc : c.val < Config.params.nCh)
    (htx : ∀ d, s.txDoneBit d = decide (d = c)) (hrx : ∀ d, s.rxDoneBit d = false) (ho : s.txOwner c = some m) :
    exec .isr s = txDone m c s.nextChoice :=
  (isrOp_of_single_tx hc htx hrx).trans (serviceBit_tx_owned ho)

/-- A run that finds one receive bit is RX_DONE of the owner, the choice of its order made. -/
theorem exec_isr_of_single_rx {s : State} {c : Chan} {m : MotIdx} (hc : c.val < Config.params.nCh)
    (htx : ∀ d, s.txDoneBit d = false) (hrx : ∀ d, s.rxDoneBit d = decide (d = c)) (ho : s.rxOwner c = some m) :
    exec .isr s = rxDone Config.params m c s.nextChoice :=
  (isrOp_of_single_rx hc htx hrx).trans (serviceBit_rx_owned ho)

/-- Settles O41: the run is TX_DONE of the owner, whose change is the one of its direction. -/
theorem transmitDoneEndsTheTransmission : Obligations.TransmitDoneEndsTheTransmission := by
  intro s c m hc htx hrx ho
  have hrun := exec_isr_of_single_tx hc htx hrx ho
  constructor
  · intro hb
    obtain ⟨t, ht, hl⟩ := txDone_unidir (s := s.nextChoice) (m := m) c hb
    refine ⟨t, hrun.trans ht, hl.motor_self, fun j hj => hl.motor_other hj, hl.trace, fun d => ?_, ?_⟩
    · simp [hl.txDoneBit, txChangeUnidir, htx, eq_comm]
    · refine hl.rest.trans ?_
      rw [hl.rxSt_of_none rfl, hl.rxOwn_of_none rfl, hl.rxArmed_of_none rfl, hl.choices]
      rfl
  · intro r hb hr
    obtain ⟨t, ht, hl⟩ := txDone_bidir (s := s.nextChoice) (m := m) c hb hr
    refine ⟨t, hrun.trans ht, hl.motor_self, fun j hj => hl.motor_other hj, hl.trace, fun d => ?_, fun d => ?_, fun d => ?_, ?_⟩
    · simp [hl.txDoneBit, txChangeBidir, htx, eq_comm]
    · simp [hl.capOwner, txChangeBidir, eq_comm]
    · simp [hl.armed, txChangeBidir, eq_comm]
    · refine hl.rest.trans ?_
      rw [hl.rxSt_of_none rfl, hl.choices]
      rfl

/-- The capture RX_DONE reads is the one that stands in the buffer. -/
theorem readCapture_of_capture {s : State} {c : Chan} {cap : List CapPair} (hl : cap.length = s.capLen c)
    (h : ∀ i : Fin capMax, i.val < cap.length → s.rxPair c i = cap[i.val]?) :
    ((s.clearRxDone c).rxTake c).readCapture c = some cap := by
  refine State.readPairs_eq_some _ 0 (by simp [State.rxTake]) hl (by omega) fun j hj => ?_
  have hlt : j < s.capLen c := hj
  rw [Nat.zero_add]
  exact h ⟨j, hlt.trans_le (s.capLen_le c)⟩ (hlt.trans_eq hl.symm)

/-- Settles O42: the run is RX_DONE of the owner, which reads the capture that stands in the buffer. -/
theorem receiveDoneDecodesAndIdles : Obligations.ReceiveDoneDecodesAndIdles := by
  intro s c m cap hc htx hrx ho hlen hcap
  obtain ⟨t, ht, hl⟩ :=
    rxDone_leads Config.params (m := m) (readCapture_of_capture (s := s.nextChoice) hlen hcap)
  refine ⟨t, (exec_isr_of_single_rx hc htx hrx ho).trans ht, fun hs => ?_, fun hs => ?_, fun j hj => hl.motor_other hj, fun d => ?_,
    fun d => ?_, ?_⟩
  · rw [hl.motor_self, hl.trace]
    simp [rxChange, hs]
  · rw [hl.motor_self, hl.trace]
    simp [rxChange, hs]
  · simp [hl.rxDoneBit, rxChange, hrx, eq_comm]
  · simp [hl.capOwner, rxChange, eq_comm]
  · refine hl.rest.trans ?_
    rw [hl.txSt_of_none rfl, hl.rxArmed_of_none rfl, hl.choices]
    rfl

/-! ### A late reply -/

/-- A telemetry update neither reads nor writes the half-duplex fields. -/
theorem tlmUpdate_halfDuplex (p : Params) (cap : List CapPair) (r : Motor) (st : HdState) (line : LineOwner) (pullup : Bool) :
    tlmUpdate p cap { r with st := st, line := line, pullup := pullup } =
      { tlmUpdate p cap r with st := st, line := line, pullup := pullup } := by
  simp only [tlmUpdate]
  cases decodeCapture cap (timingOf p r.cls).bitNs with
  | ok v => simp only [applyResult, routeValue]; split <;> rfl
  | noEdge => rfl
  | badGcr => rfl
  | badCsum => rfl

section
variable {p : Params} {s : State} {m : MotIdx} {c r : Chan} {cap : List CapPair}

/-- TX_DONE before RX_DONE: the line is turned around, and the reply then ends. -/
theorem serviceAll_tx_then_rx (hoc : s.txOwner c = some m) (hor : s.rxOwner r = some m) (hb : (s.motor m).bidir = true)
    (hr : (s.motor m).rxCh = some r) (hcap : ((s.clearRxDone r).rxTake r).readCapture r = some cap) :
    ∃ t, serviceAll p [(.tx, c), (.rx, r)] s = .next t ∧
      t.motor m = { tlmUpdate p cap (s.motor m) with st := .idle, line := .tx, pullup := true } := by
  obtain ⟨u, hu, hlu⟩ := txDone_bidir c hb hr
  obtain ⟨hbuf, hlen⟩ := hlu.rxBuf_rxLen
  obtain ⟨t, ht, hlt⟩ := rxDone_leads p (m := m) ((readCapture_congr hbuf hlen).trans hcap)
  have hor' : u.rxOwner r = some m := ((hlu.keepsBinding (txChangeBidir_identity m c r _)).rxOwner r).trans hor
  refine ⟨t, serviceAll_pair ((serviceBit_tx_owned hoc).trans hu) ((serviceBit_rx_owned hor').trans ht), ?_⟩
  rw [hlt.motor_self, hlu.motor_self]
  simp [rxChange, txChangeBidir, tlmUpdate_halfDuplex]

/-- RX_DONE before TX_DONE: the reply ends nothing, as the motor still transmits, and the line is turned around after it (R221). -/
theorem serviceAll_rx_then_tx (hoc : s.txOwner c = some m) (hor : s.rxOwner r = some m) (hb : (s.motor m).bidir = true)
    (hr : (s.motor m).rxCh = some r) (hs : (s.motor m).st = .transmitting)
    (hcap : ((s.clearRxDone r).rxTake r).readCapture r = some cap) :
    ∃ t, serviceAll p [(.rx, r), (.tx, c)] s = .next t ∧
      t.motor m = { tlmUpdate p cap (s.motor m) with st := .awaitingReply, line := .rx, pullup := true } := by
  obtain ⟨u, hu, hlu⟩ := rxDone_leads p (m := m) hcap
  have hk := hlu.keepsBinding (rxChange_identity p m r cap _)
  have hid := hk.identity m
  obtain ⟨t, ht, hlt⟩ := txDone_bidir c (hid.bidir.trans hb) (hid.rxCh.trans hr)
  refine ⟨t, serviceAll_pair ((serviceBit_rx_owned hor).trans hu)
    ((serviceBit_tx_owned ((hk.txOwner c).trans hoc)).trans ht), ?_⟩
  rw [hlt.motor_self, hlu.motor_self]
  simp [rxChange, txChangeBidir, hs]

end

/-- Settles O47: both orders update the telemetry from the same record and capture, and only the last service sets the state. -/
theorem lateReplyDependsOnTheOrder : Obligations.LateReplyDependsOnTheOrder := by
  intro p s m c r hi hb hc hr hs
  have hbidir : (s.motor m).bidir = true := by rw [← (hi.motors m).receive hb, hr]; rfl
  have hoc : s.txOwner c = some m := (hi.tables.txMap c m).2 ⟨hb, hc⟩
  have hor : s.rxOwner r = some m := (hi.tables.rxMap r m).2 ⟨hb, hr⟩
  obtain ⟨cap, hcap⟩ := Option.isSome_iff_exists.1 (readCapture_isSome (hi.buffers.written r))
  obtain ⟨t, ht, hm⟩ := serviceAll_tx_then_rx (p := p) hoc hor hbidir hr hcap
  obtain ⟨t', ht', hm'⟩ := serviceAll_rx_then_tx (p := p) hoc hor hbidir hr hs hcap
  refine ⟨t, t', ht, ht', ?_⟩
  rw [hm, hm']
  exact ⟨rfl, rfl, rfl, rfl, ⟨rfl, rfl, rfl, rfl, rfl, rfl⟩⟩

/-! ### Sending again -/

/-- In a good state a bound motor is one of the block. -/
theorem Inv.lt_of_bound {p : Params} {s : State} (h : Inv p s) {m : MotIdx} (hb : (s.motor m).bound = true) : m.val < p.nMot := by
  by_contra hm
  rw [h.absent.motors m (Nat.le_of_not_lt hm)] at hb
  cases hb

/-- In a good state TX_DONE of a bound motor goes on, keeps the bindings and ends the transmission (R216). -/
theorem Inv.txDone_next {p : Params} {s : State} (h : Inv p s) {m : MotIdx} (hb : (s.motor m).bound = true) (c : Chan) :
    ∃ t, txDone m c s = .next t ∧ KeepsBinding s t ∧ (t.motor m).st ≠ .transmitting := by
  cases hd : (s.motor m).bidir with
  | false =>
    obtain ⟨t, ht, hl⟩ := txDone_unidir c hd
    exact ⟨t, ht, hl.keepsBinding (txChangeUnidir_identity _ _), by simp [hl.motor_self, txChangeUnidir]⟩
  | true =>
    obtain ⟨r, hr⟩ := Option.isSome_iff_exists.1 (((h.motors m).receive hb).trans hd)
    obtain ⟨t, ht, hl⟩ := txDone_bidir c hd hr
    exact ⟨t, ht, hl.keepsBinding (txChangeBidir_identity _ _ _ _), by simp [hl.motor_self, txChangeBidir]⟩

/-- Settles O59: TX_DONE ends the transmission if there is one, and the SEND then starts another. -/
theorem everyInstanceCanSendAgain : Obligations.EveryInstanceCanSendAgain := by
  intro s m k c tlm value hi hm hb hc
  have hready : ∃ s', (if (s.motor k).st = .transmitting then txDone k c s else .next s) = .next s' ∧ KeepsBinding s s' ∧
      (s'.motor k).st ≠ .transmitting := by
    split
    · exact hi.txDone_next hb c
    · next hs => exact ⟨s, rfl, .refl s, hs⟩
  obtain ⟨s', hs', hk, hst⟩ := hready
  have hid := hk.identity k
  refine ⟨s', hs', _, sendOp_starts Config.params value.toNat tlm (motorOf_eq_some.2 ⟨hm, hi.lt_of_bound hb⟩)
    (hid.bound.trans hb) hst (hid.txCh.trans hc), ?_⟩
  simp [startTransmission_motor]

end Sys2Proof.Machine
end

section
/-!
The operations of a Motor Instance (spec/45_facade.md R244, R245, R250): NOP, and when THROTTLE and COMMAND transmit and when they
only respond 0.
-/

namespace Sys2Proof.Machine

/-- Settles O6: NOP is the response 0. -/
theorem nopOnlyRespondsZero : Obligations.NopOnlyRespondsZero := by
  intro s
  have hexec : exec .nop s = .next (s.respond 0#32) := rfl
  exact ⟨_, hexec, s.respond_onlyResponds 0#32⟩

/-- Settles O35: COMMAND with a code that is one is SEND of the code, which starts a transmission. -/
theorem commandTransmitsTheCode : Obligations.CommandTransmitsTheCode := by
  intro m tlm code s k c hcode hm hk hb hs hc
  have hexec : exec (.command m tlm code) s = sendOp Config.params m code.toNat tlm s :=
    commandOp_of_lt Config.params m tlm hcode s
  exact ⟨_, hexec.trans (sendOp_starts Config.params code.toNat tlm (motorOf_eq_some.2 ⟨hm, hk⟩) hb hs hc),
    startTransmission_transmits Config.params k c _ tlm s⟩

/-- Settles O36: the test of the code comes before every test of the instance. -/
theorem commandOutOfRangeIsIgnored : Obligations.CommandOutOfRangeIsIgnored := by
  intro m tlm code s hcode
  exact ⟨_, commandOp_of_le Config.params m tlm hcode s, s.respond_onlyResponds 0#32⟩

/-- The three causes for which a SEND of any value only responds 0, where the policy is drop (R213, R215). -/
theorem sendOp_silent {p : Params} (hp : p.sendWhileTx = .drop) {m : BitVec 4} {s : State}
    (hcause : p.nMot ≤ m.toNat ∨ ∃ k : MotIdx, m.toNat = k.val ∧
      ((s.motor k).bound = false ∨ (s.motor k).st = .transmitting)) (a : Nat) (tlm : Bool) :
    sendOp p m a tlm s = .next (s.respond 0#32) := by
  rcases hcause with hindex | ⟨k, hm, hcause⟩
  · exact sendOp_of_badIndex a tlm (motorOf_eq_none hindex)
  · rcases Nat.lt_or_ge k.val p.nMot with hk | hk
    · have hmot := motorOf_eq_some.2 ⟨hm, hk⟩
      cases hb : (s.motor k).bound with
      | false => exact sendOp_of_unbound a tlm hmot hb
      | true =>
        have hs := hcause.resolve_left (by simp [hb])
        exact (sendOp_of_transmitting a tlm hmot hb hs).1 hp
    · exact sendOp_of_badIndex a tlm (motorOf_eq_none (hm ▸ hk))

/-- Settles O37: THROTTLE is a SEND, COMMAND is one or is ignored for its code, and the cause silences a SEND of any value. -/
theorem throttleAndCommandAreSilentLikeSend : Obligations.ThrottleAndCommandAreSilentLikeSend := by
  intro m tlm x s hcause
  have hsend := fun a => sendOp_silent Config.params_sendWhileTx hcause a tlm
  refine ⟨⟨_, hsend (throttleValue x), s.respond_onlyResponds 0#32⟩, ?_⟩
  rcases Nat.lt_or_ge x.toNat 48 with hx | hx
  · exact ⟨_, (commandOp_of_lt Config.params m tlm hx s).trans (hsend x.toNat), s.respond_onlyResponds 0#32⟩
  · exact commandOutOfRangeIsIgnored m tlm x s hx

end Sys2Proof.Machine
end

section
/-!
Events and handler runs (spec/60_exceptions.md R260, R270 to R277): what EV_TX and EV_RX deliver, the order in which a run services
the bits set at its entry, the bits a run clears, and that no step from a good state stops.
-/

namespace Sys2Proof.Machine

/-! ### No step from a good state stops -/

/-- No service stops in a good state: a bidirectional owner has its receive channel (R26) and every pair of a capture has a value
(R46). -/
theorem Inv.not_serviceFault {p : Params} {s : State} (h : Inv p s) (b : EvKind × Chan) (e : Fault) : ¬ ServiceFault s b e := by
  rintro (⟨c, m, ho, hb, hr⟩ | ⟨c, m, i, -, hi, hr⟩)
  · have hrx := (h.motors m).receive (h.bound_of_txOwner ho)
    rw [hr, hb] at hrx
    cases hrx
  · have hw : (s.rxPair c i).isSome = true := h.buffers.written c i hi
    rw [hr] at hw
    cases hw

/-- No instruction faults in a good state: a bound motor has its transmit channel (R25), and no service stops. -/
theorem Inv.exec_ne_fault {s : State} (h : Inv Config.params s) (i : Instr) (e : Fault) : exec i s ≠ .fault e := by
  intro hf
  rcases exec_eq_fault hf with ⟨m, k, -, -, hb, -, hc, -⟩ | ⟨-, b, -, hsf⟩
  · exact (h.motors k).transmit hb hc
  · exact h.not_serviceFault b e hsf

/-- A word of the alphabet with its capture decodes (R116, R119). -/
theorem decode_ne_error {inp : Input} (hlen : inp.capture.length ≤ 21)
    (hstray : (opField inp.word).toNat ≠ 9 → inp.capture = []) (e : DecodeError) : decode inp ≠ .error e := by
  obtain ⟨w, capture⟩ := inp
  by_cases hop : opField w = 9#4
  · have hfits : captureFits capture = true := decide_eq_true hlen
    rw [decode_of_evRx hop hfits]
    nofun
  · obtain rfl : capture = [] := hstray fun h => hop (BitVec.eq_of_toNat_eq h)
    rw [decode_of_ne_evRx hop]
    nofun

/-- Settles O51: a step can stop by a refused input or by a fault of its instruction, and a good state and a word of the alphabet
shut out both. -/
theorem noStepFromAGoodStateStops : Obligations.NoStepFromAGoodStateStops := by
  intro s hi hword
  cases hr : step s with
  | next t => exact ⟨t, rfl⟩
  | fault e =>
    obtain ⟨inp, rest, -, ⟨i, -, hx⟩ | ⟨d, -, hx⟩⟩ := step_stops fun t ht => nomatch hr.symm.trans ht
    · have hi' : Inv Config.params (s.setInputs rest) := hi.of_outputs rfl
      exact absurd (hx.symm.trans hr) (hi'.exec_ne_fault i e)
    · exact nomatch hx.symm.trans hr
  | refused e =>
    obtain ⟨inp, rest, d, hs, hd, -⟩ := step_eq_refused hr
    obtain ⟨hlen, hstray⟩ := hword inp rest hs
    exact absurd hd (decode_ne_error hlen hstray d)

/-! ### The events -/

theorem evTxOp_of_channel {p : Params} {c : BitVec 4} {k : Chan} (hk : channelOf p c = some k) (s : State) :
    evTxOp p c s = .next (transmitComplete k s) := by
  simp [evTxOp, hk]

theorem evTxOp_of_no_channel {p : Params} {c : BitVec 4} (hc : p.nCh ≤ c.toNat) (s : State) : evTxOp p c s = .next s := by
  simp [evTxOp, channelOf_eq_none hc]

theorem evRxOp_of_channel {p : Params} {c : BitVec 4} {k : Chan} {capture : List CapPair} (hk : channelOf p c = some k)
    (hl : capture.length < capMax + 1) (s : State) :
    evRxOp p c capture s = .next (receiveComplete k capture hl s) := by
  simp [evRxOp, hk, hl]

theorem evRxOp_of_no_channel {p : Params} {c : BitVec 4} (hc : p.nCh ≤ c.toNat) (capture : List CapPair) (s : State) :
    evRxOp p c capture s = .next s := by
  simp [evRxOp, channelOf_eq_none hc]

/-- Settles O38: EV_TX on a channel of the pool is `transmitComplete`. -/
theorem transmitEventSetsItsBit : Obligations.TransmitEventSetsItsBit := by
  refine fun c s => ⟨fun k hc hk => ?_, fun hc => evTxOp_of_no_channel hc s⟩
  refine ⟨_, evTxOp_of_channel (channelOf_eq_some.2 ⟨hc, hk⟩) s, fun d => ?_, fun d => ?_, rfl⟩
  · simp [transmitComplete]
  · simp [transmitComplete]

/-- The pairs after a receive-complete event: those of the capture on its channel, and the old ones above them and on every other
channel. -/
theorem receiveComplete_rxPair (c : Chan) (l : List CapPair) (hl : l.length < capMax + 1) (s : State) (d : Chan) (i : Fin capMax) :
    (receiveComplete c l hl s).rxPair d i = if d = c ∧ i.val < l.length then l[i.val]? else s.rxPair d i :=
  s.storeRx_read c d l (Nat.lt_succ_iff.1 hl) i.val i.isLt

/-- Settles O39: EV_RX on a channel of the pool is `receiveComplete`, which stores at the indices of its own channel. -/
theorem receiveEventDeliversTheCapture : Obligations.ReceiveEventDeliversTheCapture := by
  refine fun c capture s => ⟨fun k hc hk hl => ?_, fun hc => evRxOp_of_no_channel hc capture s⟩
  have hlt : capture.length < capMax + 1 := Nat.lt_succ_of_le hl
  refine ⟨_, evRxOp_of_channel (channelOf_eq_some.2 ⟨hc, hk⟩) hlt s, fun i => ?_, fun d hd i => ?_,
    receiveComplete_capLen k capture hlt s, fun d => ?_, fun d => ?_, fun d => ?_, rfl⟩
  · simp [receiveComplete_rxPair]
  · simp [receiveComplete_rxPair, hd]
  · simp [receiveComplete]
  · simp [receiveComplete]
  · by_cases hd : d = k
    · simp [receiveComplete, hd]
    · simp [receiveComplete, hd]

/-! ### The order of a run -/

/-- The picks that give `order` from the bits still to service: the index of each bit among those left. -/
def orderPicks {α : Type} [DecidableEq α] : List α → List α → Nat → Nat
  | _, [], _ => 0
  | l, x :: _, 0 => l.idxOf x
  | l, x :: xs, j + 1 => orderPicks (l.erase x) xs j

/-- A pick within the list comes first in the order. -/
theorem arrange_of_pick {α : Type} {choice : Nat → Nat} {j : Nat} {l : List α} {x : α} (fuel : Nat)
    (h : l[choice j]? = some x) :
    arrange choice (fuel + 1) j l = x :: arrange choice fuel (j + 1) (l.eraseIdx (choice j)) := by
  obtain ⟨hlt, hx⟩ := List.getElem?_eq_some_iff.1 h
  match l with
  | [] => exact absurd hlt (Nat.not_lt_zero _)
  | [y] =>
    have hj : choice j = 0 := Nat.lt_one_iff.1 hlt
    cases fuel <;> simpa [arrange, hj] using hx
  | y :: z :: zs =>
    rw [arrange, Nat.mod_eq_of_lt hlt, List.getD_eq_getElem _ _ hlt, hx]
    nofun

/-- Picks that follow `orderPicks` from the `j`-th on give the order. -/
theorem arrange_orderPicks {α : Type} [DecidableEq α] {choice : Nat → Nat} {order l : List α} {j : Nat} (hp : order.Perm l)
    (h : ∀ i, choice (j + i) = orderPicks l order i) : arrange choice order.length j l = order := by
  induction order generalizing l j with
  | nil => exact hp.nil_eq.symm
  | cons x xs ih =>
    have hpick : choice j = l.idxOf x := h 0
    have hx : l[choice j]? = some x := hpick ▸ List.getElem?_idxOf (hp.mem_iff.1 List.mem_cons_self)
    have hrest : xs.Perm (l.erase x) := (List.cons_perm_iff_perm_erase.1 hp).2
    rw [List.length_cons, arrange_of_pick xs.length hx, hpick, List.eraseIdx_idxOf_eq_erase, ih hrest fun i => ?_]
    rw [Nat.add_assoc, Nat.add_comm 1 i]
    exact h (i + 1)

/-- Every permutation of the bits is the order of some picks. -/
theorem serviceOrder_orderPicks (p : Params) (n : Nat) {bits order : List (EvKind × Chan)} (hp : order.Perm bits) :
    serviceOrder { p with serviceChoice := fun _ => orderPicks bits order } n bits = order := by
  rw [serviceOrder, ← hp.length_eq]
  exact arrange_orderPicks hp fun i => by rw [Nat.zero_add]

/-- Settles O45: the picks are the indices of the order's bits among those left. -/
theorem serviceOrderIsAnyPermutation : Obligations.ServiceOrderIsAnyPermutation :=
  fun p n bits => ⟨serviceOrder_perm p n bits, fun _ hp => ⟨_, serviceOrder_orderPicks p n hp⟩⟩

/-! ### A run is the services of the bits set at its entry -/

/-- A run is its services in the order chosen, from the entry state but for the counter of free choices. -/
theorem isrOp_eq_serviceAll (p : Params) (s : State) :
    ∃ u : State, u = { s with choices := u.choices } ∧
      isrOp p s = serviceAll p (serviceOrder p s.choices (s.pending p)) u := by
  unfold isrOp
  split
  · next he => exact ⟨s, rfl, by rw [List.isEmpty_iff.1 he]; rfl⟩
  · exact ⟨s.nextChoice, rfl, rfl⟩

/-- The services do not depend on the order the parameters choose. -/
theorem serviceAll_serviceChoice (p : Params) (choice : Nat → Nat → Nat) (bits : List (EvKind × Chan)) (s : State) :
    serviceAll { p with serviceChoice := choice } bits s = serviceAll p bits s := by
  induction bits generalizing s with
  | nil => rfl
  | cons b bs ih =>
    have hb : serviceBit { p with serviceChoice := choice } b s = serviceBit p b s := rfl
    rw [serviceAll, serviceAll, hb, funext ih]

/-- The transmit bits to service are those set on the channels of the pool. -/
theorem State.mem_pending_tx {p : Params} {s : State} {c : Chan} :
    (EvKind.tx, c) ∈ s.pending p ↔ c.val < p.nCh ∧ s.txDoneBit c = true := State.mem_pending

/-- The receive bits to service are those set on the channels of the pool. -/
theorem State.mem_pending_rx {p : Params} {s : State} {c : Chan} :
    (EvKind.rx, c) ∈ s.pending p ↔ c.val < p.nCh ∧ s.rxDoneBit c = true := State.mem_pending

/-- A duplicate-free list of the set bits is a permutation of the bits to service. -/
theorem State.perm_pending {p : Params} {s : State} {order : List (EvKind × Chan)} (hn : order.Nodup)
    (htx : ∀ c : Chan, (EvKind.tx, c) ∈ order ↔ (c.val < p.nCh ∧ s.txDoneBit c = true))
    (hrx : ∀ c : Chan, (EvKind.rx, c) ∈ order ↔ (c.val < p.nCh ∧ s.rxDoneBit c = true)) : order.Perm (s.pending p) := by
  refine (List.perm_ext_iff_of_nodup hn (s.nodup_pending p)).2 fun ⟨kind, c⟩ => ?_
  cases kind with
  | tx => exact (htx c).trans State.mem_pending_tx.symm
  | rx => exact (hrx c).trans State.mem_pending_rx.symm

/-- Settles O60: the order of a run is a permutation of the set bits, and any permutation is the order of some picks. -/
theorem handlerRunServicesItsBitsInSomeOrder : Obligations.HandlerRunServicesItsBitsInSomeOrder := by
  constructor
  · intro s
    have hperm := serviceOrder_perm Config.params s.choices (s.pending Config.params)
    obtain ⟨u, hu, hrun⟩ := isrOp_eq_serviceAll Config.params s
    exact ⟨_, u, hperm.nodup_iff.2 (s.nodup_pending _), fun c => hperm.mem_iff.trans State.mem_pending_tx,
      fun c => hperm.mem_iff.trans State.mem_pending_rx, hu, hrun⟩
  · intro p s order hn htx hrx
    have hperm : order.Perm (s.pending p) := State.perm_pending hn htx hrx
    obtain ⟨u, hu, hrun⟩ :=
      isrOp_eq_serviceAll { p with serviceChoice := fun _ => orderPicks (s.pending p) order } s
    refine ⟨_, u, hu, hrun.trans ?_⟩
    rw [serviceAll_serviceChoice]
    exact congrArg (serviceAll p · u) (serviceOrder_orderPicks p s.choices hperm)

/-- Settles O40: with no bit set the list of the bits to service is empty. -/
theorem handlerRunWithoutBitsDoesNothing : Obligations.HandlerRunWithoutBitsDoesNothing := by
  intro s h
  have hempty : (s.pending Config.params).isEmpty = true := by
    rw [State.pending_isEmpty, State.irq_eq_false.2 h]
    rfl
  exact if_pos hempty

/-! ### The bits a run clears -/

/-- The services of a run clear their own status bits and no other. -/
theorem serviceAll_statusBit {p : Params} {bits : List (EvKind × Chan)} {s t : State} (h : serviceAll p bits s = .next t)
    (b : EvKind × Chan) : t.statusBit b = if b ∈ bits then false else s.statusBit b := by
  induction bits generalizing s with
  | nil =>
    cases h
    simp
  | cons b' bs ih =>
    obtain ⟨u, hu, ht⟩ := Result.andThen_eq_next h
    rw [ih ht, (serviceBit_cases hu).statusBit]
    by_cases hb : b = b'
    · simp [hb]
    · simp [hb]

/-- A run clears the status bits set at its entry and no other. -/
theorem isrOp_statusBit {p : Params} {s t : State} (h : isrOp p s = .next t) (b : EvKind × Chan) :
    t.statusBit b = if b ∈ s.pending p then false else s.statusBit b := by
  obtain ⟨u, hu, hrun⟩ := isrOp_eq_serviceAll p s
  have hbit : u.statusBit b = s.statusBit b := by
    rw [hu]
    rfl
  simp only [serviceAll_statusBit (hrun.symm.trans h), (serviceOrder_perm p s.choices _).mem_iff, hbit]

/-- After a run no bit of the pool is set. -/
theorem isrOp_clears {p : Params} {s t : State} (h : isrOp p s = .next t) {c : Chan} (hc : c.val < p.nCh) :
    t.txDoneBit c = false ∧ t.rxDoneBit c = false := by
  have htx := isrOp_statusBit h (.tx, c)
  have hrx := isrOp_statusBit h (.rx, c)
  simp only [State.statusBit_tx, State.statusBit_rx, State.mem_pending_tx, State.mem_pending_rx, hc, true_and] at htx hrx
  rw [htx, hrx]
  simp

/-- In a good state a run goes on. -/
theorem Inv.isrOp_next {p : Params} {s : State} (h : Inv p s) : ∃ t, isrOp p s = .next t := by
  cases hr : isrOp p s with
  | next t => exact ⟨t, rfl⟩
  | fault e =>
    obtain ⟨b, -, hf⟩ := isrOp_eq_fault hr
    exact absurd hf (h.not_serviceFault b e)
  | refused e => exact absurd hr (isrOp_ne_refused p s e)

/-- Settles O44: the run goes on, clears the bits of the pool and keeps those of the absent channels clear. -/
theorem handlerRunServicesEveryBit : Obligations.HandlerRunServicesEveryBit := by
  intro s hi
  obtain ⟨t, ht⟩ := hi.isrOp_next
  refine ⟨t, ht, fun c => ?_⟩
  rcases Nat.lt_or_ge c.val Config.params.nCh with hc | hc
  · exact isrOp_clears ht hc
  · exact (isrOp_inv hi ht).absent.bits c hc

/-! ### Bits with no owner -/

/-- From `s` to `t` the clears of the bits were emitted, in their order, and nothing changed but the trace and status bits. -/
structure EmitsClears (bits : List (EvKind × Chan)) (s t : State) : Prop where
  trace : t.trace = s.trace ++ bits.map fun b => .stClear b.1 b.2
  rest : t = { s with txSt := t.txSt, rxSt := t.rxSt, trace := t.trace }

theorem EmitsClears.refl (s : State) : EmitsClears [] s s := ⟨(List.append_nil _).symm, rfl⟩

theorem EmitsClears.cons {b : EvKind × Chan} {bits : List (EvKind × Chan)} {s u t : State} (h : EmitsClears [b] s u)
    (h' : EmitsClears bits u t) : EmitsClears (b :: bits) s t where
  trace := by rw [h'.trace, h.trace, List.append_assoc]; rfl
  rest := h'.rest.trans (by rw [h.rest])

theorem EmitsClears.route {bits : List (EvKind × Chan)} {s t : State} (h : EmitsClears bits s t) (kind : EvKind) (c : Chan) :
    t.route kind c = s.route kind c := by
  rw [h.rest]
  cases kind <;> rfl

/-- The service of a bit with no owner only clears it (R275). -/
theorem serviceBit_unowned {p : Params} {b : EvKind × Chan} {s : State} (h : s.route b.1 b.2 = none) :
    ∃ t, serviceBit p b s = .next t ∧ EmitsClears [b] s t := by
  obtain ⟨kind, c⟩ := b
  cases kind with
  | tx => exact ⟨_, serviceBit_tx_unowned h, rfl, rfl⟩
  | rx => exact ⟨_, serviceBit_rx_unowned h, rfl, rfl⟩

/-- The services of bits with no owner only clear them: no service gives a channel an owner. -/
theorem serviceAll_unowned {p : Params} {bits : List (EvKind × Chan)} {s : State}
    (h : ∀ b ∈ bits, s.route b.1 b.2 = none) : ∃ t, serviceAll p bits s = .next t ∧ EmitsClears bits s t := by
  induction bits generalizing s with
  | nil => exact ⟨s, rfl, .refl s⟩
  | cons b bs ih =>
    obtain ⟨u, hu, hclear⟩ := serviceBit_unowned (p := p) (h b List.mem_cons_self)
    obtain ⟨t, ht, hclears⟩ := ih fun b' hb' => (hclear.route b'.1 b'.2).trans (h b' (List.mem_cons_of_mem _ hb'))
    exact ⟨t, by rw [serviceAll, hu, Result.andThen_next, ht], hclear.cons hclears⟩

/-- The clears of different bits are different actions. -/
theorem nodup_map_stClear {bits : List (EvKind × Chan)} (h : bits.Nodup) :
    (bits.map fun b => Action.stClear b.1 b.2).Nodup :=
  h.map fun _ _ he => Prod.ext (Action.stClear.inj he).1 (Action.stClear.inj he).2

/-- The clears of the set bits, kind by kind. -/
theorem mem_map_stClear_pending {p : Params} {s : State} {a : Action} :
    a ∈ (s.pending p).map (fun b => Action.stClear b.1 b.2) ↔
      ∃ c : Chan, c.val < p.nCh ∧
        ((a = .stClear .tx c ∧ s.txDoneBit c = true) ∨ (a = .stClear .rx c ∧ s.rxDoneBit c = true)) := by
  rw [List.mem_map]
  constructor
  · rintro ⟨⟨kind, c⟩, hb, rfl⟩
    cases kind with
    | tx =>
      obtain ⟨hc, hset⟩ := State.mem_pending_tx.1 hb
      exact ⟨c, hc, .inl ⟨rfl, hset⟩⟩
    | rx =>
      obtain ⟨hc, hset⟩ := State.mem_pending_rx.1 hb
      exact ⟨c, hc, .inr ⟨rfl, hset⟩⟩
  · rintro ⟨c, hc, ⟨rfl, hset⟩ | ⟨rfl, hset⟩⟩
    · exact ⟨(.tx, c), State.mem_pending_tx.2 ⟨hc, hset⟩, rfl⟩
    · exact ⟨(.rx, c), State.mem_pending_rx.2 ⟨hc, hset⟩, rfl⟩

/-- Settles O43: the run is the services of the set bits, and none of these has an owner. -/
theorem unownedBitsAreOnlyCleared : Obligations.UnownedBitsAreOnlyCleared := by
  intro s htx hrx
  obtain ⟨u, hu, hrun⟩ := isrOp_eq_serviceAll Config.params s
  have hperm := serviceOrder_perm Config.params s.choices (s.pending Config.params)
  have hunowned : ∀ b ∈ serviceOrder Config.params s.choices (s.pending Config.params), u.route b.1 b.2 = none := by
    rintro ⟨kind, c⟩ hb
    rw [hu]
    cases kind with
    | tx =>
      obtain ⟨hc, hset⟩ := State.mem_pending_tx.1 (hperm.mem_iff.1 hb)
      exact htx c hc hset
    | rx =>
      obtain ⟨hc, hset⟩ := State.mem_pending_rx.1 (hperm.mem_iff.1 hb)
      exact hrx c hc hset
  obtain ⟨t, ht, hclears⟩ := serviceAll_unowned (p := Config.params) hunowned
  have hexec : exec .isr s = .next t := hrun.trans ht
  have htrace : u.trace = s.trace := by rw [hu]
  have hchoices : t.choices = u.choices := by rw [hclears.rest]
  refine ⟨t, hexec, fun c hc => isrOp_clears hexec hc, ⟨_, htrace ▸ hclears.trace, ?_, fun a => ?_⟩, ?_⟩
  · exact nodup_map_stClear (hperm.nodup_iff.2 (s.nodup_pending _))
  · exact (hperm.map _).mem_iff.trans mem_map_stClear_pending
  · refine hclears.rest.trans ?_
    rw [hchoices, hu]

end Sys2Proof.Machine
end
